-- ==== Sys2Proof/Word.lean ====
section
/-! DEFINITION. The two value types of the machine: the 32-bit command word and the datapath value. -/

namespace Sys2Proof

/-- A command word (R71): the only values of the machine that have bits. Bit 0 is the least significant (R11). -/
abbrev Word := BitVec 32

/-- `V`, the exact rationals (R12): every datapath value, table entry and frame-buffer cell. It has no width (R10). -/
abbrev V := Rat

end Sys2Proof
end

