-- ==== Sys2Proof/Syntax.lean ====
section
/-! DEFINITION. The 14 commands as syntax: one constructor per row of the opcode map (R70, R77), with the operands of the
abstract level (R82): values of `V`, a bit, or a natural number. -/

namespace Sys2Proof

/-- An abstract command (R82), its operands in the order of R77. -/
inductive Instr where
  /-- `INIT` (R197) -/
  | init
  /-- `SET_FREEZE b` (R191) -/
  | setFreeze (b : Bool)
  /-- `SET_FEEDBACK value` (R192) -/
  | setFeedback (value : V)
  /-- `SET_MODINDEX value` (R193) -/
  | setModindex (value : V)
  /-- `SET_BITCRUSH level` (R194) -/
  | setBitcrush (level : V)
  /-- `SET_DECIMATE level` (R195) -/
  | setDecimate (level : V)
  /-- `SET_DRIVE drive` (R196) -/
  | setDrive (drive : V)
  /-- `FREQ_FREE note, spread, fine` (R104) -/
  | freqFree (note spread fine : V)
  /-- `FREQ_CHORD note, spread, fine, chord` (R112) -/
  | freqChord (note spread fine chord : V)
  /-- `FREQ_RATIONAL #n, spread, fine` (R119) -/
  | freqRational (n : Nat) (spread fine : V)
  /-- `FREQ_HARMONIC base, spread, fine, detune` (R123) -/
  | freqHarmonic (base spread fine detune : V)
  /-- `SET_STRUCTURE value` (R143) -/
  | setStructure (value : V)
  /-- `PROC_FM #count` (R171) -/
  | procFm (count : Nat)
  /-- `PROC_AM #count` (R172) -/
  | procAm (count : Nat)
deriving DecidableEq, Repr

/-- The seven formats (R74). -/
inductive Format where
  | z | b | n | v1 | v3 | v4 | nv2
deriving DecidableEq, Repr

/-- The name of a row of the opcode map (R77), without operands. -/
inductive Opcode where
  | init | setFreeze | setFeedback | setModindex | setBitcrush | setDecimate | setDrive
  | freqFree | freqChord | freqRational | freqHarmonic | setStructure | procFm | procAm
deriving DecidableEq, Repr

end Sys2Proof
end

