-- ==== Sys2Proof/WellFormed.lean ====
section
/-! DEFINITION. Which abstract commands have words: the operand limits of R74, R75 and R76. An abstract command beyond them
still has a meaning (R82); only the encoding needs the limits. -/

namespace Sys2Proof

/-- `abs v` counted in units of `2^-149`, the spacing of the least binary32 values (R75); exact when `v.den` divides
`2^149`. -/
def units149 (v : V) : Nat := v.num.natAbs * 2 ^ 149 / v.den

/-- `v` is exactly the value of some operand word (R75): a multiple of `2^-149` with at most 24 significant bits, below
`2^128` in magnitude. -/
def isBinary32 (v : V) : Bool :=
  decide (2 ^ 149 % v.den = 0) &&
    (decide (units149 v < 2 ^ 24) ||
      (decide (Nat.log2 (units149 v) ≤ 276) &&
        decide (units149 v % 2 ^ (Nat.log2 (units149 v) - 23) = 0)))

/-- `n` fits the 24-bit immediate (R71, R76). -/
def fitsImm (n : Nat) : Bool := decide (n < 2 ^ 24)

/-- The command has words (R74, R75, R76). -/
def Instr.wellFormed : Instr → Bool
  | .init => true
  | .setFreeze _ => true
  | .setFeedback value => isBinary32 value
  | .setModindex value => isBinary32 value
  | .setBitcrush level => isBinary32 level
  | .setDecimate level => isBinary32 level
  | .setDrive drive => isBinary32 drive
  | .freqFree note spread fine => isBinary32 note && isBinary32 spread && isBinary32 fine
  | .freqChord note spread fine chord =>
    isBinary32 note && isBinary32 spread && isBinary32 fine && isBinary32 chord
  | .freqRational n spread fine => fitsImm n && isBinary32 spread && isBinary32 fine
  | .freqHarmonic base spread fine detune =>
    isBinary32 base && isBinary32 spread && isBinary32 fine && isBinary32 detune
  | .setStructure value => isBinary32 value
  | .procFm count => fitsImm count
  | .procAm count => fitsImm count

end Sys2Proof
end

