-- ==== Sys2Proof/Decode.lean ====
section
/-! DEFINITION. The command encoding (30_encoding): bit fields, operand words, the opcode map, the decoder (total on any list
of words, rejecting by name), and the encoder. -/

namespace Sys2Proof

/-- `op = h[31:24]` (R71). -/
def opField (h : Word) : BitVec 8 := h.extractLsb' 24 8

/-- `imm = h[23:0]`, unsigned (R71, R76). -/
def immField (h : Word) : Nat := (h.extractLsb' 0 24).toNat

/-- `2^k` for an integer `k` of either sign (R13). -/
def pow2 : Int → V
  | .ofNat k => ((2 ^ k : Nat) : V)
  | .negSucc k => 1 / ((2 ^ (k + 1) : Nat) : V)

/-- `val(w)`: the exact value of an operand word, none where the exponent is 255 (R75). -/
def value32 (w : Word) : Option V :=
  let s := w.extractLsb' 31 1
  let e := (w.extractLsb' 23 8).toNat
  let f := (w.extractLsb' 0 23).toNat
  let sign : V := if s = 1#1 then -1 else 1
  if e = 255 then none
  else if e = 0 then some (sign * (f : V) * pow2 (-149))
  else some (sign * ((2 ^ 23 + f : Nat) : V) * pow2 ((e : Int) - 150))

/-- The operand words of a list, in order: none at the first word of exponent 255 (R81). -/
def values32 : List Word → Option (List V)
  | [] => some []
  | w :: ws =>
    match value32 w with
    | none => none
    | some v =>
      match values32 ws with
      | none => none
      | some vs => some (v :: vs)

/-- How many operand words a format has (R74). -/
def Format.operandWords : Format → Nat
  | .z => 0
  | .b => 0
  | .n => 0
  | .v1 => 1
  | .v3 => 3
  | .v4 => 4
  | .nv2 => 2

/-- The header bits a format fixes (R74, R77): the opcode, and every must-be-zero bit of the immediate. -/
def Format.mask : Format → Word
  | .z => 0xFFFFFFFF#32
  | .b => 0xFFFFFFFE#32
  | .n => 0xFF000000#32
  | .v1 => 0xFFFFFFFF#32
  | .v3 => 0xFFFFFFFF#32
  | .v4 => 0xFFFFFFFF#32
  | .nv2 => 0xFF000000#32

/-- The opcode number (R77). -/
def Opcode.code : Opcode → BitVec 8
  | .init => 0x01#8
  | .setFreeze => 0x10#8
  | .setFeedback => 0x11#8
  | .setModindex => 0x12#8
  | .setBitcrush => 0x13#8
  | .setDecimate => 0x14#8
  | .setDrive => 0x15#8
  | .freqFree => 0x20#8
  | .freqChord => 0x21#8
  | .freqRational => 0x22#8
  | .freqHarmonic => 0x23#8
  | .setStructure => 0x30#8
  | .procFm => 0x40#8
  | .procAm => 0x41#8

/-- The format (R77). -/
def Opcode.format : Opcode → Format
  | .init => .z
  | .setFreeze => .b
  | .setFeedback => .v1
  | .setModindex => .v1
  | .setBitcrush => .v1
  | .setDecimate => .v1
  | .setDrive => .v1
  | .freqFree => .v3
  | .freqChord => .v4
  | .freqRational => .nv2
  | .freqHarmonic => .v4
  | .setStructure => .v1
  | .procFm => .n
  | .procAm => .n

/-- The header `op ++ imm` (R71). -/
def headerWord (op : BitVec 8) (imm : Nat) : Word := op ++ BitVec.ofNat 24 imm

/-- The row's `match` column (R77): the opcode over a zero immediate. -/
def Opcode.matchWord (o : Opcode) : Word := headerWord o.code 0

/-- The row's `mask` column (R77). -/
def Opcode.mask (o : Opcode) : Word := o.format.mask

/-- The 14 rows of the opcode map, in the order of R77. -/
def Opcode.all : List Opcode :=
  [.init, .setFreeze, .setFeedback, .setModindex, .setBitcrush, .setDecimate, .setDrive,
   .freqFree, .freqChord, .freqRational, .freqHarmonic, .setStructure, .procFm, .procAm]

/-- A header `h` selects the row when `h & mask = match` (R77). -/
def Opcode.selects (o : Opcode) (h : Word) : Bool := h &&& o.mask == o.matchWord

/-- The row a header selects, none where it is illegal (R78). -/
def selectOpcode (h : Word) : Option Opcode := Opcode.all.find? (fun o => o.selects h)

/-- The command of a row: its immediate from the header (R76) and its operands from the operand values `v 0, v 1, …` in the
order of R77. -/
def Opcode.instr (o : Opcode) (h : Word) (v : Nat → V) : Instr :=
  match o with
  | .init => .init
  | .setFreeze => .setFreeze (h.getLsbD 0)
  | .setFeedback => .setFeedback (v 0)
  | .setModindex => .setModindex (v 0)
  | .setBitcrush => .setBitcrush (v 0)
  | .setDecimate => .setDecimate (v 0)
  | .setDrive => .setDrive (v 0)
  | .freqFree => .freqFree (v 0) (v 1) (v 2)
  | .freqChord => .freqChord (v 0) (v 1) (v 2) (v 3)
  | .freqRational => .freqRational (immField h) (v 0) (v 1)
  | .freqHarmonic => .freqHarmonic (v 0) (v 1) (v 2) (v 3)
  | .setStructure => .setStructure (v 0)
  | .procFm => .procFm (immField h)
  | .procAm => .procAm (immField h)

/-- Why a list of words is no command: the three decode faults (R78). -/
inductive DecodeError where
  /-- `ILLEGAL_COMMAND`: the header selects no row of R77. -/
  | illegalCommand
  /-- `TRUNCATED_COMMAND`: the command's words run past the end of the list (also a list with no header). -/
  | truncatedCommand
  /-- `ILLEGAL_OPERAND`: an operand word has exponent 255. -/
  | illegalOperand
deriving DecidableEq, Repr

/-- The decoder (R80, R81): the command at the head of a list of words with the words after it, or the decode fault. The length is
tested before any operand word is looked at. -/
def decode (ws : List Word) : Except DecodeError (Instr × List Word) :=
  match ws with
  | [] => .error .truncatedCommand
  | h :: rest =>
    match selectOpcode h with
    | none => .error .illegalCommand
    | some o =>
      if rest.length < o.format.operandWords then .error .truncatedCommand
      else
        match values32 (rest.take o.format.operandWords) with
        | none => .error .illegalOperand
        | some vs => .ok (o.instr h (fun j => vs.getD j 0), rest.drop o.format.operandWords)

/-- The row a command belongs to (R77). -/
def Instr.opcode : Instr → Opcode
  | .init => .init
  | .setFreeze _ => .setFreeze
  | .setFeedback _ => .setFeedback
  | .setModindex _ => .setModindex
  | .setBitcrush _ => .setBitcrush
  | .setDecimate _ => .setDecimate
  | .setDrive _ => .setDrive
  | .freqFree _ _ _ => .freqFree
  | .freqChord _ _ _ _ => .freqChord
  | .freqRational _ _ _ => .freqRational
  | .freqHarmonic _ _ _ _ => .freqHarmonic
  | .setStructure _ => .setStructure
  | .procFm _ => .procFm
  | .procAm _ => .procAm

/-- The immediate of a command (R74, R76): 0 where the format has none. -/
def Instr.imm : Instr → Nat
  | .init => 0
  | .setFreeze b => if b then 1 else 0
  | .setFeedback _ => 0
  | .setModindex _ => 0
  | .setBitcrush _ => 0
  | .setDecimate _ => 0
  | .setDrive _ => 0
  | .freqFree _ _ _ => 0
  | .freqChord _ _ _ _ => 0
  | .freqRational n _ _ => n
  | .freqHarmonic _ _ _ _ => 0
  | .setStructure _ => 0
  | .procFm count => count
  | .procAm count => count

/-- The value operands of a command, in the order of R77. -/
def Instr.operands : Instr → List V
  | .init => []
  | .setFreeze _ => []
  | .setFeedback value => [value]
  | .setModindex value => [value]
  | .setBitcrush level => [level]
  | .setDecimate level => [level]
  | .setDrive drive => [drive]
  | .freqFree note spread fine => [note, spread, fine]
  | .freqChord note spread fine chord => [note, spread, fine, chord]
  | .freqRational _ spread fine => [spread, fine]
  | .freqHarmonic base spread fine detune => [base, spread, fine, detune]
  | .setStructure value => [value]
  | .procFm _ => []
  | .procAm _ => []

/-- The length of a command in words, fixed by its opcode alone (R72). -/
def Instr.words (i : Instr) : Nat := 1 + i.opcode.format.operandWords

/-- The exponent field `e` of the operand word of a magnitude of `m` units of `2^-149` (R75). -/
def exponentField (m : Nat) : Nat := if m < 2 ^ 23 then 0 else Nat.log2 m - 22

/-- The fraction field `f` of the operand word of a magnitude of `m` units of `2^-149` (R75). -/
def fractionField (m : Nat) : Nat := if m < 2 ^ 23 then m else m / 2 ^ (exponentField m - 1) - 2 ^ 23

/-- The operand word of a value (R75), its inverse where the value is a binary32 value; 0 is written `0x00000000`. -/
def encodeValue (v : V) : Word :=
  (if v < 0 then 1#1 else 0#1) ++ BitVec.ofNat 8 (exponentField (units149 v)) ++
    BitVec.ofNat 23 (fractionField (units149 v))

/-- The words of a well-formed command (R71, R74). -/
def encode (i : Instr) : List Word :=
  headerWord i.opcode.code i.imm :: i.operands.map encodeValue

/-- The words of a stream of commands, laid end to end with nothing between them (R70). -/
def encodeStream (is : List Instr) : List Word := is.flatMap encode

/-- The longest command has five words (R80). -/
def longestCommand : Nat := 5

/-- The words of an instruction whose bits, numbered from bit 0 of its first word, are the low `nbits` bits of `w`, every
bit above being 0, up to the longest command. -/
def tableWords (nbits w : Nat) : List Word :=
  (List.range longestCommand).map (fun j => BitVec.ofNat 32 (w % 2 ^ nbits / 2 ^ (32 * j)))

/-- The instruction the decoder reads from an opcode-table word (operand words the table gives no bits are 0). -/
def decodeTableWord (nbits w : Nat) : Option Instr :=
  match decode (tableWords nbits w) with
  | .ok (i, _) => some i
  | .error _ => none

end Sys2Proof
end

