-- ==== Sys2Proof/Config.lean ====
section
/-! DEFINITION. What an implementation fixes (the record `CFG` of R9), what a configuration must satisfy (R234), the
machine's own configuration as a constant no proof can see into, and the free value of a frame-buffer cell at power-on. -/

namespace Sys2Proof

/-- `RAT_TIE` (R9, R113): which of two equally near fractions the rational search returns. -/
inductive RatTie where
  | lower
  | upper
deriving DecidableEq, Repr, Inhabited

/-- The configuration record `CFG` (R9). A table is a function of the cell address of its space (R50): only the cells R50
gives the space are ever read. -/
structure Config where
  /-- `SINE_SIZE` -/
  sineSize : Nat
  /-- `SINE_ROM`, cells `0 .. SINE_SIZE-1` (R51) -/
  sineRom : Nat → V
  /-- `RCOS_SIZE` -/
  rcosSize : Nat
  /-- `RCOS_ROM`, cells `0 .. RCOS_SIZE` (R52) -/
  rcosRom : Nat → V
  /-- `CHORD_ROM`, cell `6*c + j` is row `c`, column `j` (R50, R53) -/
  chordRom : Nat → V
  /-- `STRUCT_ROM`, cell `8*i + k` is voice `i`, preset `k` (R50, R53) -/
  structRom : Nat → V
  /-- `REF_NOTE`, semitones -/
  refNote : V
  /-- `REF_FREQ`, cycles per sample -/
  refFreq : V
  /-- `FRATIO` (R16) -/
  fratio : V → V
  /-- `SQRT` (R16), used on values `>= 0` only -/
  sqrt : V → V
  /-- `SAT` (R16) -/
  sat : V → V
  /-- `FB_OFFSET` -/
  fbOffset : V
  /-- `DECIMATE_RESET` -/
  decimateReset : V
  /-- `BITCRUSH_RESET` -/
  bitcrushReset : V
  /-- `DRIVE_RESET` -/
  driveReset : V
  /-- `FB_FRAMES` -/
  fbFrames : Nat
  /-- `RAT_TIE` -/
  ratTie : RatTie
deriving Inhabited

/-- What a configuration must satisfy to be one of this hardware (R234, with the constraints of R9 and R16).
That every `CHORD_ROM` value lies in `[0,12]` is not asked: C10 says the row order is the only constraint (log entry 6). -/
structure Config.Legal (c : Config) : Prop where
  sineSize_pos : 1 ≤ c.sineSize
  rcosSize_pos : 1 ≤ c.rcosSize
  rcos_first : c.rcosRom 0 = 0
  rcos_last : c.rcosRom c.rcosSize = 1
  rcos_unit : ∀ k, k ≤ c.rcosSize → 0 ≤ c.rcosRom k ∧ c.rcosRom k ≤ 1
  chord_ascending : ∀ r j, r < 11 → j < 5 → c.chordRom (6 * r + j) ≤ c.chordRom (6 * r + j + 1)
  struct_first : ∀ i, i < 6 → c.structRom (8 * i) = 0
  struct_unit : ∀ a, a < 48 → 0 ≤ c.structRom a ∧ c.structRom a ≤ 1
  refFreq_pos : 0 < c.refFreq
  fratio_pos : ∀ x, 0 < c.fratio x
  sqrt_nonneg : ∀ y, 0 ≤ y → 0 ≤ c.sqrt y
  sat_zero : ∀ x, c.sat x = 0 ↔ x = 0
  decimateReset_pos : 0 < c.decimateReset
  bitcrushReset_pos : 0 < c.bitcrushReset
  driveReset_pos : 0 < c.driveReset
  fbFrames_pos : 1 ≤ c.fbFrames
  fbFrames_lt : c.fbFrames < 2 ^ 24

namespace Config

/-- `x` brought into `[0,1]`; it changes no value already there. -/
def toUnit (x : V) : V := if x < 0 then 0 else if 1 < x then 1 else x

/-- `x` made positive; it changes no value already positive. -/
def toPositive (x : V) : V := if 0 < x then x else 1

/-- The greatest of the cells `base .. base + j`: the cell itself where the row is ascending. -/
def rowMax (rom : Nat → V) (base : Nat) : Nat → V
  | 0 => rom base
  | j + 1 => if rowMax rom base j ≤ rom (base + j + 1) then rom (base + j + 1) else rowMax rom base j

/-- The nearest legal configuration: it leaves every legal configuration as it is (`Laws.Config.legalise_of_legal`) and
always gives a legal one (`Laws.Config.legalise_legal`), so that "a legal configuration about which nothing else is known"
can be written as a constant without a body (R234: an illegal configuration is never constructed). -/
def legalise (c : Config) : Config where
  sineSize := max 1 c.sineSize
  sineRom := c.sineRom
  rcosSize := max 1 c.rcosSize
  rcosRom k :=
    if k = 0 then 0 else if k = max 1 c.rcosSize then 1
    else if k < max 1 c.rcosSize then toUnit (c.rcosRom k) else c.rcosRom k
  chordRom a := if a < 66 then rowMax c.chordRom (6 * (a / 6)) (a % 6) else c.chordRom a
  structRom a := if a < 48 then (if a % 8 = 0 then 0 else toUnit (c.structRom a)) else c.structRom a
  refNote := c.refNote
  refFreq := toPositive c.refFreq
  fratio x := toPositive (c.fratio x)
  sqrt y := if 0 ≤ y ∧ c.sqrt y < 0 then 0 else c.sqrt y
  sat x := if x = 0 then 0 else if c.sat x = 0 then 1 else c.sat x
  fbOffset := c.fbOffset
  decimateReset := toPositive c.decimateReset
  bitcrushReset := toPositive c.bitcrushReset
  driveReset := toPositive c.driveReset
  fbFrames := max 1 (min (2 ^ 24 - 1) c.fbFrames)
  ratTie := c.ratTie

/-- FREE (log entry 5): the implementer's choice of every field of R9, before R234's constraints. It has no body: nothing
can be proved of it that does not hold of every configuration. -/
opaque raw : Config

/-- The configuration of the machine: some legal configuration, and no proof can tell which (R9, R234; log entry 5). -/
def cfg : Config := raw.legalise

/-- FREE VALUE (log entry 8): what frame-buffer cell `a` holds at power-on, "any value" (R35, U21). No body. -/
opaque fbPowerOn : Nat → V

/-- FREE VALUE (log entry 9): the quotient of `n` by a total gain of 0, which R12 says is never evaluated and no run reaches (R28).
No body. -/
opaque byZeroGain : V → V

end Config

end Sys2Proof
end

