-- ==== Sys2Proof/Machine/State.lean ====
section
/-! DEFINITION. The state of the machine (R20), why a step can stop (R213), and the state right after reset (R35). -/

namespace Sys2Proof.Machine

/-- A register that can hold the mark `undef`, "nothing has written it" (R14, R22). The mark is the spec's own reset value of
`inc`, `mx`, `FREEZE`, `FEEDBACK` and `MODINDEX` (R35; log entry 1). -/
inductive Reg (α : Type) where
  /-- the mark `undef` -/
  | undef
  /-- a value some command wrote -/
  | val (v : α)
deriving DecidableEq, Repr

/-- One thing per voice, voices 0 to 5: "Exactly 6 voices at all times" (R21, R36). -/
structure Six (α : Type) where
  v0 : α
  v1 : α
  v2 : α
  v3 : α
  v4 : α
  v5 : α
deriving DecidableEq, Repr

/-- The same thing for every voice. -/
def Six.replicate {α : Type} (a : α) : Six α := ⟨a, a, a, a, a, a⟩

/-- A rail (R15): 0 is left and carries the sine, 1 is right and carries the cosine. -/
inductive Rail where
  | left
  | right
deriving DecidableEq, Repr

/-- One value per rail. -/
structure Rails where
  left : V
  right : V
deriving DecidableEq, Repr

/-- The frame buffer `FB` (R54): the cells something has written since power-on, by rising cell address, each with its
value. A cell that is not listed still holds what it held at power-on (R35; log entry 8). -/
abbrev Memory := List (Nat × V)

/-- Why a step stops with a fault (R213). Each carries `cp` of the faulting command and no machine state (R211). The hardware has no
fault signal: a fault stands for "the source gives this command no meaning in this state" (R210), so every one is SAFE, it makes
the model stop where the hardware would go on (R212). -/
inductive Fault where
  /-- code 1 `ILLEGAL_COMMAND`: raised by the fetch, the header matches no command (R78). Safe. -/
  | illegalCommand (cp : Nat)
  /-- code 2 `TRUNCATED_COMMAND`: raised by the fetch, the command's words run past the end of `CS` (R57, R78). Safe. -/
  | truncatedCommand (cp : Nat)
  /-- code 3 `ILLEGAL_OPERAND`: raised by the fetch, an operand word has exponent 255 (R75). Safe. -/
  | illegalOperand (cp : Nat)
  /-- code 4 `UNWRITTEN_READ`: raised by `FREQ_*`, `PROC_FM`, `PROC_AM`, a register holding `undef` is read (R22; D24, U20:
  "a model must not read zero"). Safe. -/
  | unwrittenRead (cp : Nat)
  /-- code 5 `CHORD_INDEX`: raised by `FREQ_CHORD`, `floor(chord*12)` outside 0..10 (R107). Safe. -/
  | chordIndex (cp : Nat)
  /-- code 6 `MAXDEN_ZERO`: raised by `FREQ_RATIONAL`, `n = 0` (R119). Safe. -/
  | maxdenZero (cp : Nat)
  /-- code 7 `RATIO_NONPOSITIVE`: raised by `FREQ_RATIONAL`, `spread <= 0` (R119). Safe. -/
  | ratioNonpositive (cp : Nat)
  /-- code 8 `SQRT_DOMAIN`: raised by `FREQ_HARMONIC`, a negative radicand at a voice that is written (R121). Safe. -/
  | sqrtDomain (cp : Nat)
  /-- code 9 `STRUCT_RANGE`: raised by `SET_STRUCTURE`, `value` outside `[0,1)` (R141). Safe. -/
  | structRange (cp : Nat)
  /-- code 10 `FB_RANGE`: raised by `PROC_FM`, `PROC_AM`, `count > FB_FRAMES` (R151). Safe. -/
  | fbRange (cp : Nat)
  /-- code 11 `DECIMATE_LEVEL`: raised by `PROC_FM`, `PROC_AM`, `DECIMATE <= 0` at a processed frame (R153). Safe. -/
  | decimateLevel (cp : Nat)
  /-- code 12 `BITCRUSH_LEVEL`: raised by `PROC_FM`, `PROC_AM`, `BITCRUSH <= 0` at a processed frame (R153). Safe. -/
  | bitcrushLevel (cp : Nat)
  /-- code 13 `DRIVE_ZERO`: raised by `PROC_FM`, `PROC_AM`, `SAT(DRIVE) = 0` at a processed frame (R153). Safe. -/
  | driveZero (cp : Nat)
  /-- code 14 `PHASE_RANGE`: raised by `PROC_FM` (phase sum, advance) and `PROC_AM` (advance), a phase outside `[0,1)` after its
  one wrap step (R157, R168). Safe. -/
  | phaseRange (cp : Nat)
deriving DecidableEq, Repr

/-- Why a step is refused. -/
inductive Refusal where
  /-- Raised by `exec` for an instruction that has no meaning yet; no arm of this model does. Safe. -/
  | notModelled (mnemonic : String)
deriving DecidableEq, Repr

/-- The whole state of the machine (R20), with the command stream `CS` the step reads (R55). -/
structure State where
  /-- `ph[i]`, running oscillator phase (R21, R23) -/
  ph : Six V
  /-- `inc[i]`, per-sample phase advance (R21, R24) -/
  inc : Six (Reg V)
  /-- `fb[i][r]`, smoothed output of the previous sample, one per rail (R21, R25) -/
  fb : Six Rails
  /-- `mx[i]`, the modulation matrix (R26) -/
  mx : Six (Reg V)
  /-- `FREEZE`, one bit (R29) -/
  freeze : Reg Bool
  /-- `FEEDBACK`, self-feedback amount (R29) -/
  feedback : Reg V
  /-- `MODINDEX`, modulation index (R29) -/
  modindex : Reg V
  /-- `BITCRUSH`, bit-depth reduction level (R29) -/
  bitcrush : V
  /-- `DECIMATE`, sample-decimation level (R29) -/
  decimate : V
  /-- `DRIVE`, soft-clip drive level (R29) -/
  drive : V
  /-- `FB`, the frame buffer (R54) -/
  frames : Memory
  /-- `cp`, the index in `CS` of the next command's header word (R30) -/
  cp : Nat
  /-- `CS`, the words the host has handed the engine so far (R55) -/
  cs : List Word
deriving DecidableEq, Repr

/-- The state right after power-on under a configuration (R35, R230): nothing in `FB` written, the stream empty. -/
def State.powerOn (c : Config) : State where
  ph := .replicate 0
  inc := .replicate .undef
  fb := .replicate ⟨0, 0⟩
  mx := .replicate .undef
  freeze := .undef
  feedback := .undef
  modindex := .undef
  bitcrush := c.bitcrushReset
  decimate := c.decimateReset
  drive := c.driveReset
  frames := []
  cp := 0
  cs := []

/-- The machine right after reset (R35), under its own configuration. -/
def State.reset : State := State.powerOn Config.cfg

end Sys2Proof.Machine
end

