-- ==== Sys2Proof/Machine/Ops.lean ====
section
/-! DEFINITION. The named operations of R14: register reads and writes, memory reads and writes, raising a fault, advancing the
stream cursor. -/

namespace Sys2Proof.Machine

/-- The outcome of one command: the next state, a fault or a refusal. -/
abbrev Result := Host.Outcome State Fault Refusal

/-! Registers. -/

/-- Voice `i`'s entry. -/
def Six.get {α : Type} (x : Six α) (i : Fin 6) : α :=
  match i with
  | 0 => x.v0
  | 1 => x.v1
  | 2 => x.v2
  | 3 => x.v3
  | 4 => x.v4
  | 5 => x.v5

/-- `x` with voice `i`'s entry replaced. -/
def Six.set {α : Type} (x : Six α) (i : Fin 6) (a : α) : Six α :=
  match i with
  | 0 => { x with v0 := a }
  | 1 => { x with v1 := a }
  | 2 => { x with v2 := a }
  | 3 => { x with v3 := a }
  | 4 => { x with v4 := a }
  | 5 => { x with v5 := a }

/-- One entry computed per voice. -/
def Six.ofFn {α : Type} (f : Fin 6 → α) : Six α := ⟨f 0, f 1, f 2, f 3, f 4, f 5⟩

/-- The voices 5 down to 0 (R102). -/
def descending : List (Fin 6) := [5, 4, 3, 2, 1, 0]

/-- The voices 0 up to 5 (R155, R169). -/
def ascending : List (Fin 6) := [0, 1, 2, 3, 4, 5]

/-- The value of rail `r`. -/
def Rails.get (x : Rails) : Rail → V
  | .left => x.left
  | .right => x.right

/-- The number of a rail (R15). -/
def Rail.index : Rail → Nat
  | .left => 0
  | .right => 1

/-- `raise Fault(cause)` (R14, R210): the ONE way a command stops. There is no trap entry: nothing is saved, no mode changes and
control goes nowhere (R217); the fault carries `cp` of the command's header word (R30, R211), and whatever the command wrote is
dropped with the state (R211). There is no return (R218). -/
def raise {α : Type} (cause : Nat → Fault) (cp : Nat) : Except Fault α := .error (cause cp)

/-- `need(x)` (R14): the value, or `UNWRITTEN_READ` where the register holds `undef`, the stop R22, R213 and U20 state (D24). -/
def need {α : Type} (cp : Nat) (x : Reg α) : Except Fault α :=
  match x with
  | .val v => .ok v
  | .undef => raise .unwrittenRead cp

/-- `need(x[i])` for `i = 0..5` (R153). -/
def needSix (cp : Nat) (x : Six (Reg V)) : Except Fault (Six V) := do
  let a ← need cp x.v0
  let b ← need cp x.v1
  let c ← need cp x.v2
  let d ← need cp x.v3
  let e ← need cp x.v4
  let f ← need cp x.v5
  return ⟨a, b, c, d, e, f⟩

/-- `FREEZE <- b` (R191). -/
def State.setFreeze (s : State) (b : Bool) : State := { s with freeze := .val b }

/-- `FEEDBACK <- v` (R192). -/
def State.setFeedback (s : State) (v : V) : State := { s with feedback := .val v }

/-- `MODINDEX <- v` (R193). -/
def State.setModindex (s : State) (v : V) : State := { s with modindex := .val v }

/-- `BITCRUSH <- v` (R194). -/
def State.setBitcrush (s : State) (v : V) : State := { s with bitcrush := v }

/-- `DECIMATE <- v` (R195). -/
def State.setDecimate (s : State) (v : V) : State := { s with decimate := v }

/-- `DRIVE <- v` (R196). -/
def State.setDrive (s : State) (v : V) : State := { s with drive := v }

/-- The increments replaced (R24). -/
def State.setInc (s : State) (x : Six (Reg V)) : State := { s with inc := x }

/-- All six matrix coefficients written at once (R26). -/
def State.setMx (s : State) (x : Six V) : State :=
  { s with mx := ⟨.val x.v0, .val x.v1, .val x.v2, .val x.v3, .val x.v4, .val x.v5⟩ }

/-- What a block of frames writes: the phases, the feedback histories and the frame buffer (R175). -/
def State.setBlock (s : State) (ph : Six V) (fb : Six Rails) (frames : Memory) : State :=
  { s with ph := ph, fb := fb, frames := frames }

/-- Every register at its reset value of R35; `FB`, `CS` and `cp` as they were (R197). -/
def State.resetRegisters (c : Config) (s : State) : State :=
  { State.powerOn c with frames := s.frames, cp := s.cp, cs := s.cs }

/-- `cp <- cp + n` (R14, R30). -/
def State.advance (s : State) (n : Nat) : State := { s with cp := s.cp + n }

/-- The end of a command of `n` words (R72): the state its body leaves with `cp` moved past it, or its fault. -/
def finish (n : Nat) (body : Except Fault State) : Result :=
  match body with
  | .ok t => .next (t.advance n)
  | .error f => .fault f

/-! Memory. -/

/-- The cells of `m` lie at rising addresses, from `lo` up. -/
def Memory.risingFrom : Nat → Memory → Bool
  | _, [] => true
  | lo, (a, _) :: m => decide (lo ≤ a) && Memory.risingFrom (a + 1) m

/-- The canonical form: addresses strictly rising. What an unlisted cell reads as is the mark `undef` of `Memory.cell`, which no
entry can hold, so two memories in this form with the same cells are the same list (log entry 8). -/
def Memory.wf (m : Memory) : Bool := Memory.risingFrom 0 m

/-- Every listed cell is one of the first `n` of the space. -/
def Memory.below (n : Nat) : Memory → Bool
  | [] => true
  | (a, _) :: m => decide (a < n) && Memory.below n m

/-- What was last written to cell `a`, `undef` where nothing has written it since power-on. -/
def Memory.cell (m : Memory) (a : Nat) : Reg V :=
  match m with
  | [] => .undef
  | (b, v) :: rest => if a = b then .val v else Memory.cell rest a

/-- `MemRead(FB, a)` (R14, R62): the value last written, or the cell's value at power-on (R35, U21). -/
def Memory.read (m : Memory) (a : Nat) : V :=
  match m.cell a with
  | .val v => v
  | .undef => Config.fbPowerOn a

/-- `MemWrite(FB, a, v)` (R14, R58): the cell is written whole, every other cell is left. -/
def Memory.write (m : Memory) (a : Nat) (v : V) : Memory :=
  match m with
  | [] => [(a, v)]
  | (b, w) :: rest =>
    if a < b then (a, v) :: (b, w) :: rest
    else if a = b then (a, v) :: rest
    else (b, w) :: Memory.write rest a v

/-- The cell of rail `r` of frame `k` (R54): interleaved, left before right. -/
def frameCell (k : Nat) (r : Rail) : Nat := 2 * k + r.index

/-- `FbRead(k, r)` (R54). -/
def fbRead (m : Memory) (k : Nat) (r : Rail) : V := m.read (frameCell k r)

/-- `FbWrite(k, r, v)` (R54). -/
def fbWrite (m : Memory) (k : Nat) (r : Rail) (v : V) : Memory := m.write (frameCell k r) v

/-- The four read-only table spaces (R50). -/
inductive Rom where
  | sine
  | rcos
  | chord
  | struct
deriving DecidableEq, Repr

/-- `MemRead(space, addr)` of a table (R14, R50). -/
def romRead (c : Config) (space : Rom) (addr : Nat) : V :=
  match space with
  | .sine => c.sineRom addr
  | .rcos => c.rcosRom addr
  | .chord => c.chordRom addr
  | .struct => c.structRom addr

/-- How many cells a table space has (R50). -/
def romCells (c : Config) : Rom → Nat
  | .sine => c.sineSize
  | .rcos => c.rcosSize + 1
  | .chord => 66
  | .struct => 48

/-- How many cells the frame buffer has (R50). -/
def fbCells (c : Config) : Nat := 2 * c.fbFrames

end Sys2Proof.Machine
end

