-- ==== Sys2Proof/Machine/Operands.lean ====
section
/-! DEFINITION. The arithmetic of R13 and what a command makes of its operands: the base increment, the nearest entry of a chord
row, the bounded rational approximation, the harmonic number, the structure position, and the table reads. -/

namespace Sys2Proof.Machine

/-- `floor(x)` (R13). -/
def floorV (x : V) : Int := Rat.floor x

/-- `trunc(x)`, rounding toward zero (R13). -/
def truncV (x : V) : Int := if 0 ≤ x then floorV x else -(floorV (-x))

/-- `x^i`, the `i`-fold product (R13). -/
def powV (x : V) : Nat → V
  | 0 => 1
  | i + 1 => powV x i * x

/-! Frequency operands. -/

/-- `BINC(x) = FRATIO(x - REF_NOTE) * REF_FREQ` (R103). -/
def baseIncrement (c : Config) (x : V) : V := c.fratio (x - c.refNote) * c.refFreq

/-- A voice's note `note + i*spread` (R104, R108). -/
def voiceNote (note spread : V) (i : Fin 6) : V := note + (i.val : V) * spread

/-- The chord row index `floor(chord * 12)` (R107). -/
def chordIndex (chord : V) : Int := floorV (chord * 12)

/-- Cell `j` of row `r` of `CHORD` (R50, R107). -/
def chordRow (c : Config) (r : Nat) (j : Nat) : V := romRead c .chord (6 * r + j)

/-- `NEAREST(T, q)` (R105): the least `j` in 0..4 with `q` below the midpoint of `T[j]` and `T[j+1]`, else 5. -/
def nearest (T : Nat → V) (q : V) : Nat :=
  if q < (T 0 + T 1) / 2 then 0
  else if q < (T 1 + T 2) / 2 then 1
  else if q < (T 2 + T 3) / 2 then 2
  else if q < (T 3 + T 4) / 2 then 3
  else if q < (T 4 + T 5) / 2 then 4
  else 5

/-- The loop of R106 on the bounds `lo`, `hi`, at most `fuel` times. -/
def nearestLoop (T : Nat → V) (q : V) : Nat → Nat → Nat → Nat
  | 0, lo, _ => lo
  | fuel + 1, lo, hi =>
    if lo < hi then
      if q - T ((lo + hi) / 2) < T ((lo + hi) / 2 + 1) - q then nearestLoop T q fuel lo ((lo + hi) / 2)
      else nearestLoop T q fuel ((lo + hi) / 2 + 1) hi
    else lo

/-- The binary search of R106, which ends in at most 3 iterations. -/
def nearestSearch (T : Nat → V) (q : V) : Nat := nearestLoop T q 3 0 5

/-- The octave offset `12 * floor(n / 12)` of a note (R108). -/
def octaveOffset (n : V) : V := 12 * (floorV (n / 12) : V)

/-- The quantised note (R109): the nearest entry of the row to the note's place in its octave, put back in its octave. -/
def quantisedNote (T : Nat → V) (n : V) : V := octaveOffset n + T (nearest T (n - octaveOffset n))

/-- Halving of R115: while `r >= 2`, at most `fuel` times. -/
def foldDown : Nat → V → Int → V × Int
  | 0, r, k => (r, k)
  | fuel + 1, r, k => if 2 ≤ r then foldDown fuel (r / 2) (k + 1) else (r, k)

/-- Doubling of R115: while `r < 1`, at most `fuel` times. -/
def foldUp : Nat → V → Int → V × Int
  | 0, r, k => (r, k)
  | fuel + 1, r, k => if r < 1 then foldUp fuel (r * 2) (k - 1) else (r, k)

/-- Folding of a positive ratio into `[1,2)` (R115): the folded ratio and `k`. Both loops are given as many turns as the
numerator and the denominator of `r` can make them take, so neither is cut short. -/
def foldRatio (r : V) : V × Int :=
  foldUp (Nat.log2 r.den + 1) (foldDown (Nat.log2 r.num.natAbs + 1) r 0).1
    (foldDown (Nat.log2 r.num.natAbs + 1) r 0).2

/-- Of the two final bounds of the search the nearer, and at equal distance the one `RAT_TIE` names (R113, R114). -/
def nearerBound (tie : RatTie) (t : V) (a b c d : Nat) : Nat × Nat :=
  if t - (a : V) / (b : V) < (c : V) / (d : V) - t then (a, b)
  else if (c : V) / (d : V) - t < t - (a : V) / (b : V) then (c, d)
  else
    match tie with
    | .lower => (a, b)
    | .upper => (c, d)

/-- The mediant loop of R114 on the bounds `a/b` and `c/d`, at most `fuel` times. -/
def mediantLoop (tie : RatTie) (t : V) (n : Nat) : Nat → Nat → Nat → Nat → Nat → Nat × Nat
  | 0, a, b, c, d => nearerBound tie t a b c d
  | fuel + 1, a, b, c, d =>
    if b + d ≤ n then
      if t = ((a + c : Nat) : V) / ((b + d : Nat) : V) then (a + c, b + d)
      else if ((a + c : Nat) : V) / ((b + d : Nat) : V) < t then mediantLoop tie t n fuel (a + c) (b + d) c d
      else mediantLoop tie t n fuel a b (a + c) (b + d)
    else nearerBound tie t a b c d

/-- `RATAPPROX(t, n)` (R113) by the search of R114, whose loop runs at most `n - 1` times. -/
def ratApprox (tie : RatTie) (t : V) (n : Nat) : Nat × Nat := mediantLoop tie t n n 0 1 1 1

/-- The approximated ratio of R119: fold, approximate, unfold by the exact inverse (R115, R114, R116). -/
def approximatedRatio (tie : RatTie) (n : Nat) (r : V) : V :=
  (1 + ((ratApprox tie ((foldRatio r).1 - 1) n).1 : V) / ((ratApprox tie ((foldRatio r).1 - 1) n).2 : V)) *
    pow2 (foldRatio r).2

/-- The harmonic number `h = floor(base + i*spread)` (R120). -/
def harmonicNumber (base spread : V) (i : Fin 6) : Int := floorV (base + (i.val : V) * spread)

/-- The radicand `1 + detune*(i*spread)^2` (R121). -/
def detuneRadicand (spread detune : V) (i : Fin 6) : V :=
  1 + detune * ((i.val : V) * spread) * ((i.val : V) * spread)

/-- The two branches of R122 with the fundamental `fund` and the detune factor `w`. -/
def harmonicIncrement (fund : V) (h : Int) (w : V) : V :=
  if 0 ≤ h then fund * (h : V) * w else (0 - fund) / ((h : V) - 2) * w

/-! The structure operand. -/

/-- The position among the presets, `value * 7` (R141). -/
def structurePosition (value : V) : V := value * 7

/-- `RCOSW(f)` (R142): the raised-cosine table read with linear interpolation. -/
def rcosWarp (c : Config) (f : V) : V :=
  let y := f * (c.rcosSize : V)
  let j := floorV y
  let g := y - (j : V)
  romRead c .rcos j.toNat + (romRead c .rcos (j.toNat + 1) - romRead c .rcos j.toNat) * g

/-- One matrix coefficient (R143): voice `i`'s row between the preset columns `k` and `k + 1` at weight `w`. -/
def matrixCoefficient (c : Config) (k : Nat) (w : V) (i : Fin 6) : V :=
  romRead c .struct (8 * i.val + k) +
    (romRead c .struct (8 * i.val + k + 1) - romRead c .struct (8 * i.val + k)) * w

/-- All six coefficients a structure operand sets (R141, R142, R143). -/
def structureMatrix (c : Config) (value : V) : Six V :=
  let x := structurePosition value
  let k := floorV x
  let w := rcosWarp c (x - (k : V))
  Six.ofFn (matrixCoefficient c k.toNat w)

/-! The waveform. -/

/-- `WAVE(p)` (R154): the sine table read with linear interpolation, the index taken modulo `SINE_SIZE`. -/
def wave (c : Config) (p : V) : V :=
  let x := p * (c.sineSize : V)
  let k := floorV x
  let f := x - (k : V)
  let a := romRead c .sine (k % (c.sineSize : Int)).toNat
  let b := romRead c .sine ((k + 1) % (c.sineSize : Int)).toNat
  a + (b - a) * f

end Sys2Proof.Machine
end

