-- ==== Sys2Proof/Machine/Flags.lean ====
section
/-! DEFINITION. The machine has no status flags, condition codes or predicates (R33): every instruction rule says "Flags: none".
What stands in their place are the comparisons that end a command with a fault; each is written once here. -/

namespace Sys2Proof.Machine

/-- A phase after its one wrap step: itself in `[0,1)`, else `PHASE_RANGE` (R157, R168). -/
def checkPhase (cp : Nat) (p : V) : Except Fault V :=
  if p < 0 ∨ 1 ≤ p then raise .phaseRange cp else .ok p

/-- The chord row of an operand, 0..10, else `CHORD_INDEX` (R107). -/
def checkChord (cp : Nat) (chord : V) : Except Fault Nat :=
  if chordIndex chord < 0 ∨ 10 < chordIndex chord then raise .chordIndex cp else .ok (chordIndex chord).toNat

/-- The closed guard window of R111: `-64 <= arg <= 64`. -/
def insideGuard (arg : V) : Bool := decide (-64 ≤ arg) && decide (arg ≤ 64)

/-- The operand checks of `FREQ_RATIONAL`, the denominator bound before the ratio (R119, R216). -/
def checkRational (cp : Nat) (n : Nat) (spread : V) : Except Fault Unit :=
  if n = 0 then raise .maxdenZero cp else if spread ≤ 0 then raise .ratioNonpositive cp else .ok ()

/-- The root of a detune radicand, `SQRT_DOMAIN` where it is negative (R121). -/
def checkSqrt (c : Config) (cp : Nat) (y : V) : Except Fault V :=
  if y < 0 then raise .sqrtDomain cp else .ok (c.sqrt y)

/-- The range of a structure operand, `[0,1)`, else `STRUCT_RANGE` (R141). -/
def checkStructure (cp : Nat) (value : V) : Except Fault Unit :=
  if value < 0 ∨ 1 ≤ value then raise .structRange cp else .ok ()

/-- The range of a frame count, at most `FB_FRAMES`, else `FB_RANGE` (R151). -/
def checkCount (c : Config) (cp : Nat) (count : Nat) : Except Fault Unit :=
  if c.fbFrames < count then raise .fbRange cp else .ok ()

/-- The level checks (2), (3), (4) of R153, in that order. -/
def checkLevels (c : Config) (s : State) : Except Fault Unit :=
  if s.decimate ≤ 0 then raise .decimateLevel s.cp
  else if s.bitcrush ≤ 0 then raise .bitcrushLevel s.cp
  else if c.sat s.drive = 0 then raise .driveZero s.cp
  else .ok ()

end Sys2Proof.Machine
end

