-- ==== Sys2Proof/Machine/Frequency.lean ====
section
/-! DEFINITION. The frequency assignment commands (40_frequency_assigner, R100 to R125). Each reads FREEZE, writes some or all of
`inc`, and touches no other state (R100); none checks the increment it writes (R125). -/

namespace Sys2Proof.Machine

/-- The traversal the four commands share (R101, R102): the voices of the list in order, a frozen even voice passed over
before anything is computed for it, a voice whose increment is none left as it is (R111), the first fault ending it. -/
def assignVoices (fz : Bool) (f : Fin 6 → Except Fault (Option V)) :
    List (Fin 6) → Six (Reg V) → Except Fault (Six (Reg V))
  | [], x => .ok x
  | i :: is, x =>
    if fz = true ∧ i.val % 2 = 0 then assignVoices fz f is x
    else
      match f i with
      | .error e => .error e
      | .ok none => assignVoices fz f is x
      | .ok (some v) => assignVoices fz f is (x.set i (.val v))

/-- The increment of `FREQ_FREE` (R104). -/
def freeIncrement (c : Config) (note spread fine : V) (i : Fin 6) : V :=
  baseIncrement c (voiceNote note spread i + fine)

/-- The ratio argument of `FREQ_CHORD` (R109, R110): the quantised note, then `fine`, relative to `REF_NOTE`. -/
def chordArgument (c : Config) (row : Nat) (note spread fine : V) (i : Fin 6) : V :=
  quantisedNote (chordRow c row) (voiceNote note spread i) + fine - c.refNote

/-- The increment of `FREQ_CHORD`, none outside the guard window (R111, R112). -/
def chordIncrement (c : Config) (row : Nat) (note spread fine : V) (i : Fin 6) : Option V :=
  if insideGuard (chordArgument c row note spread fine i) then
    some (c.fratio (chordArgument c row note spread fine i) * c.refFreq)
  else none

/-- The increment of `FREQ_RATIONAL` (R117, R118, R119). -/
def rationalIncrement (c : Config) (n : Nat) (spread fine : V) (i : Fin 6) : V :=
  baseIncrement c fine * approximatedRatio c.ratTie n (powV spread i.val)

/-- The increment of `FREQ_HARMONIC` (R120 to R123), `SQRT_DOMAIN` where the radicand is negative. -/
def harmonicVoice (c : Config) (cp : Nat) (base spread fine detune : V) (i : Fin 6) : Except Fault V := do
  let w ← checkSqrt c cp (detuneRadicand spread detune i)
  return harmonicIncrement (baseIncrement c fine) (harmonicNumber base spread i) w

/-- `FREQ_FREE` under a configuration (R104). -/
def freqFreeWith (c : Config) (note spread fine : V) (s : State) : Result :=
  finish 4 do
    let fz ← need s.cp s.freeze
    let x ← assignVoices fz (fun i => .ok (some (freeIncrement c note spread fine i))) descending s.inc
    return s.setInc x

/-- `FREQ_CHORD` under a configuration (R112). -/
def freqChordWith (c : Config) (note spread fine chord : V) (s : State) : Result :=
  finish 5 do
    let fz ← need s.cp s.freeze
    let row ← checkChord s.cp chord
    let x ← assignVoices fz (fun i => .ok (chordIncrement c row note spread fine i)) descending s.inc
    return s.setInc x

/-- `FREQ_RATIONAL` under a configuration (R119). -/
def freqRationalWith (c : Config) (n : Nat) (spread fine : V) (s : State) : Result :=
  finish 3 do
    let fz ← need s.cp s.freeze
    let _ ← checkRational s.cp n spread
    let x ← assignVoices fz (fun i => .ok (some (rationalIncrement c n spread fine i))) descending s.inc
    return s.setInc x

/-- `FREQ_HARMONIC` under a configuration (R123). -/
def freqHarmonicWith (c : Config) (base spread fine detune : V) (s : State) : Result :=
  finish 5 do
    let fz ← need s.cp s.freeze
    let x ← assignVoices fz (fun i => (harmonicVoice c s.cp base spread fine detune i).map some) descending s.inc
    return s.setInc x

/-- `FREQ_FREE note, spread, fine` (R104). -/
def execFreqFree (note spread fine : V) (s : State) : Result := freqFreeWith Config.cfg note spread fine s

/-- `FREQ_CHORD note, spread, fine, chord` (R112). -/
def execFreqChord (note spread fine chord : V) (s : State) : Result :=
  freqChordWith Config.cfg note spread fine chord s

/-- `FREQ_RATIONAL #n, spread, fine` (R119). -/
def execFreqRational (n : Nat) (spread fine : V) (s : State) : Result := freqRationalWith Config.cfg n spread fine s

/-- `FREQ_HARMONIC base, spread, fine, detune` (R123). -/
def execFreqHarmonic (base spread fine detune : V) (s : State) : Result :=
  freqHarmonicWith Config.cfg base spread fine detune s

end Sys2Proof.Machine
end

