-- ==== Sys2Proof/Machine/Parameters.lean ====
section
/-! DEFINITION. The engine parameter commands and INIT (43_engine_parameters, R190 to R198). A setter stores its operand and does
nothing else: it reads no state, checks no range and raises no fault of its own (R190). -/

namespace Sys2Proof.Machine

/-- `INIT` under a configuration (R197). -/
def initWith (c : Config) (s : State) : Result := finish 1 (.ok (s.resetRegisters c))

/-- `INIT` (R197): every register to its reset value, `FB` left as it is. -/
def execInit (s : State) : Result := initWith Config.cfg s

/-- `SET_FREEZE b` (R191). -/
def execSetFreeze (b : Bool) (s : State) : Result := finish 1 (.ok (s.setFreeze b))

/-- `SET_FEEDBACK value` (R192). -/
def execSetFeedback (value : V) (s : State) : Result := finish 2 (.ok (s.setFeedback value))

/-- `SET_MODINDEX value` (R193). -/
def execSetModindex (value : V) (s : State) : Result := finish 2 (.ok (s.setModindex value))

/-- `SET_BITCRUSH level` (R194). -/
def execSetBitcrush (level : V) (s : State) : Result := finish 2 (.ok (s.setBitcrush level))

/-- `SET_DECIMATE level` (R195). -/
def execSetDecimate (level : V) (s : State) : Result := finish 2 (.ok (s.setDecimate level))

/-- `SET_DRIVE drive` (R196). -/
def execSetDrive (drive : V) (s : State) : Result := finish 2 (.ok (s.setDrive drive))

end Sys2Proof.Machine
end

