-- ==== Sys2Proof/Machine/Structure.lean ====
section
/-! DEFINITION. The modulation router command (41_modulation_router, R140 to R145). -/

namespace Sys2Proof.Machine

/-- `SET_STRUCTURE` under a configuration (R143): it reads no register and writes all six coefficients. -/
def setStructureWith (c : Config) (value : V) (s : State) : Result :=
  finish 2 do
    let _ ← checkStructure s.cp value
    return s.setMx (structureMatrix c value)

/-- `SET_STRUCTURE value` (R143). -/
def execSetStructure (value : V) (s : State) : Result := setStructureWith Config.cfg value s

end Sys2Proof.Machine
end

