-- ==== Sys2Proof/Machine/Voice.lean ====
section
/-! DEFINITION. The processing commands (42_voice_processor, R150 to R176). The mode is the opcode's: no state holds it (R150). -/

namespace Sys2Proof.Machine

/-- FM or AM, fixed for the whole command (R150). -/
inductive Mode where
  | fm
  | am
deriving DecidableEq, Repr

/-- The parameter snapshot of one command: the registers R153 checks once, none of which changes during it. -/
structure Params where
  inc : Six V
  mx : Six V
  feedback : V
  modindex : V
  bitcrush : V
  decimate : V
  drive : V
deriving DecidableEq, Repr

/-- What a frame carries from one voice to the next (R155): the voice registers as written so far, the carry `m`, the stereo sum
`acc`. -/
structure Chain where
  ph : Six V
  fb : Six Rails
  carry : V
  acc : Rails
deriving DecidableEq, Repr

/-- What a command carries from one frame to the next (R152). -/
structure Block where
  ph : Six V
  fb : Six Rails
  frames : Memory
deriving DecidableEq, Repr

/-- The checks of R153, in order: `UNWRITTEN_READ`, then the levels. -/
def snapshot (c : Config) (s : State) : Except Fault Params := do
  let inc ← needSix s.cp s.inc
  let mx ← needSix s.cp s.mx
  let feedback ← need s.cp s.feedback
  let modindex ← need s.cp s.modindex
  let _ ← checkLevels c s
  return ⟨inc, mx, feedback, modindex, s.bitcrush, s.decimate, s.drive⟩

/-! The stages. -/

/-- One wrap step of one unit, either way (R157). -/
def wrapOnce (p : V) : V := if 1 ≤ p then p - 1 else if p < 0 then p + 1 else p

/-- The FM phase sum of a rail (R157), before its wrap. -/
def phaseSum (c : Config) (p : Params) (inp : Rails) (i : Fin 6) (x : Chain) (r : Rail) : V :=
  x.ph.get i + inp.get r + c.fbOffset + (x.fb.get i).get r * p.feedback + x.carry * p.modindex

/-- `PHASE(mode, i, r)` (R156, R157). -/
def railPhase (c : Config) (cp : Nat) (mode : Mode) (p : Params) (inp : Rails) (i : Fin 6) (x : Chain) (r : Rail) :
    Except Fault V :=
  match mode with
  | .am => .ok (x.ph.get i)
  | .fm => checkPhase cp (wrapOnce (phaseSum c p inp i x r))

/-- Step 1, the decimator (R158). -/
def decimator (level p : V) : V := (floorV (p * level) : V) / level

/-- The quarter-period offset of the cosine rail (R160). -/
def quarterOffset (pd : V) : V := if 1 ≤ pd + 1 / 4 then pd + 1 / 4 - 1 else pd + 1 / 4

/-- Where a rail reads the waveform (R159, R160). -/
def readPhase (r : Rail) (pd : V) : V :=
  match r with
  | .left => pd
  | .right => quarterOffset pd

/-- Step 3, the bit-depth quantizer (R161). -/
def bitDepth (level s : V) : V := (truncV (s * level) : V) / level

/-- Step 4, the soft clipper (R162). -/
def softClip (c : Config) (drive s : V) : V := c.sat (s * drive) / c.sat drive

/-- Steps 1 to 4 of a rail at phase `ph` (R158 to R162). -/
def railSample (c : Config) (p : Params) (r : Rail) (ph : V) : V :=
  softClip c p.drive (bitDepth p.bitcrush (wave c (readPhase r (decimator p.decimate ph))))

/-- Step 5's factor (R164). -/
def amFactor (p : Params) (inp : Rails) (i : Fin 6) (x : Chain) (r : Rail) : V :=
  x.carry + (1 - ((x.fb.get i).get r + 1) * p.feedback) + inp.get r

/-- `v[r]`, the voice's output on a rail (R163): after step 4 in FM mode, after step 5 in AM mode. -/
def railOutput (c : Config) (mode : Mode) (p : Params) (inp : Rails) (i : Fin 6) (x : Chain) (r : Rail) (ph : V) : V :=
  match mode with
  | .fm => railSample c p r ph
  | .am => railSample c p r ph * amFactor p inp i x r

/-- Step 6, the feedback smoother (R165). -/
def smooth (old v : V) : V := old + 1 / 10 * (v - old)

/-- Step 7, the cascade hand-off of a voice with matrix coefficient `m` and left output `v` (R166). -/
def handOff (mode : Mode) (modindex m v : V) : V :=
  match mode with
  | .am => 1 - (v + 1) * m * modindex
  | .fm => v * m

/-- A voice's direct gain (R28). -/
def gain (p : Params) (i : Fin 6) : V := 1 - p.mx.get i

/-- Step 9, the phase advance (R168): one decrement, no upward wrap. -/
def advancePhase (ph inc : V) : V := if 1 ≤ ph + inc then ph + inc - 1 else ph + inc

/-- A voice's writes, given its two outputs and its advanced phase (R155 steps 6 to 9). For voice 5 nothing is handed on. -/
def voiceUpdate (mode : Mode) (p : Params) (i : Fin 6) (x : Chain) (v : Rails) (q : V) : Chain where
  ph := x.ph.set i q
  fb := x.fb.set i ⟨smooth (x.fb.get i).left v.left, smooth (x.fb.get i).right v.right⟩
  carry := if i.val < 5 then handOff mode p.modindex (p.mx.get i) v.left else x.carry
  acc := ⟨x.acc.left + v.left * gain p i, x.acc.right + v.right * gain p i⟩

/-- One voice of one frame (R155). Both rails read `fb[i][r]` and `m` as they were before steps 6 and 7. -/
def runVoice (c : Config) (cp : Nat) (mode : Mode) (p : Params) (inp : Rails) (i : Fin 6) (x : Chain) :
    Except Fault Chain := do
  let pl ← railPhase c cp mode p inp i x .left
  let pr ← railPhase c cp mode p inp i x .right
  let q ← checkPhase cp (advancePhase (x.ph.get i) (p.inc.get i))
  return voiceUpdate mode p i x ⟨railOutput c mode p inp i x .left pl, railOutput c mode p inp i x .right pr⟩ q

/-- The voices of a list, one after the other (R169). -/
def runVoices (c : Config) (cp : Nat) (mode : Mode) (p : Params) (inp : Rails) : List (Fin 6) → Chain → Except Fault Chain
  | [], x => .ok x
  | i :: is, x =>
    match runVoice c cp mode p inp i x with
    | .error e => .error e
    | .ok y => runVoices c cp mode p inp is y

/-- The total gain (R170): the six direct gains and the headroom 2. -/
def totalGain (p : Params) : V := gain p 0 + gain p 1 + gain p 2 + gain p 3 + gain p 4 + gain p 5 + 2

/-- `acc / total` (R170). A total of 0, which no state with a whole matrix has (R28), leaves a free value (log entry 9). -/
def overGain (p : Params) (acc : V) : V := if totalGain p = 0 then Config.byZeroGain acc else acc / totalGain p

/-- The output of a rail (R170): normalised, and halved in AM mode. -/
def normalise (mode : Mode) (p : Params) (acc : V) : V :=
  match mode with
  | .fm => overGain p acc
  | .am => overGain p acc / 2

/-- What a frame starts from (R155): the registers, the seed 1, the accumulator cleared. -/
def frameStart (b : Block) : Chain := ⟨b.ph, b.fb, 1, ⟨0, 0⟩⟩

/-- The input pair of frame `k` (R152). -/
def frameInput (m : Memory) (k : Nat) : Rails := ⟨fbRead m k .left, fbRead m k .right⟩

/-- Frame `k` (R152, R155): its input pair read, the six voices run, its output pair written in its place. -/
def runFrame (c : Config) (cp : Nat) (mode : Mode) (p : Params) (k : Nat) (b : Block) : Except Fault Block := do
  let x ← runVoices c cp mode p (frameInput b.frames k) ascending (frameStart b)
  return ⟨x.ph, x.fb,
    fbWrite (fbWrite b.frames k .left (normalise mode p x.acc.left)) k .right (normalise mode p x.acc.right)⟩

/-- `n` frames from frame `k` on, in order (R152). -/
def runFrames (c : Config) (cp : Nat) (mode : Mode) (p : Params) : Nat → Nat → Block → Except Fault Block
  | 0, _, b => .ok b
  | n + 1, k, b =>
    match runFrame c cp mode p k b with
    | .error e => .error e
    | .ok b' => runFrames c cp mode p n (k + 1) b'

/-- The frames of a non-empty block, the checks of R153 first. -/
def runBlock (c : Config) (mode : Mode) (count : Nat) (s : State) : Except Fault State := do
  let p ← snapshot c s
  let b ← runFrames c s.cp mode p count 0 ⟨s.ph, s.fb, s.frames⟩
  return s.setBlock b.ph b.fb b.frames

/-- `PROC_FM`, `PROC_AM` under a configuration (R151, R171, R172): a count of 0 reads nothing, writes nothing and checks nothing
further. -/
def procWith (c : Config) (mode : Mode) (count : Nat) (s : State) : Result :=
  finish 1 do
    let _ ← checkCount c s.cp count
    if count = 0 then return s else runBlock c mode count s

/-- `PROC_FM #count` (R171). -/
def execProcFm (count : Nat) (s : State) : Result := procWith Config.cfg .fm count s

/-- `PROC_AM #count` (R172). -/
def execProcAm (count : Nat) (s : State) : Result := procWith Config.cfg .am count s

end Sys2Proof.Machine
end

