-- ==== Sys2Proof/Machine/Dispatch.lean ====
section
/-! DEFINITION. The one dispatch: every command to its meaning (R77). -/

namespace Sys2Proof.Machine

def exec (i : Instr) (s : State) : Host.Outcome State Fault Refusal :=
  match i with
  | .init => Sys2Proof.Machine.execInit s
  | .setFreeze b => Sys2Proof.Machine.execSetFreeze b s
  | .setFeedback value => Sys2Proof.Machine.execSetFeedback value s
  | .setModindex value => Sys2Proof.Machine.execSetModindex value s
  | .setBitcrush level => Sys2Proof.Machine.execSetBitcrush level s
  | .setDecimate level => Sys2Proof.Machine.execSetDecimate level s
  | .setDrive drive => Sys2Proof.Machine.execSetDrive drive s
  | .freqFree note spread fine => Sys2Proof.Machine.execFreqFree note spread fine s
  | .freqChord note spread fine chord => Sys2Proof.Machine.execFreqChord note spread fine chord s
  | .freqRational n spread fine => Sys2Proof.Machine.execFreqRational n spread fine s
  | .freqHarmonic base spread fine detune => Sys2Proof.Machine.execFreqHarmonic base spread fine detune s
  | .setStructure value => Sys2Proof.Machine.execSetStructure value s
  | .procFm count => Sys2Proof.Machine.execProcFm count s
  | .procAm count => Sys2Proof.Machine.execProcAm count s

end Sys2Proof.Machine
end

