-- ==== Sys2Proof/Machine/Fetch.lean ====
section
/-! DEFINITION. Fetching a command from the stream `CS` at the cursor (R55, R57, R81), and placing words where the next fetch reads. -/

namespace Sys2Proof.Machine

/-- What the engine finds at the cursor. -/
inductive Fetched where
  /-- the end of the stream: the host has handed nothing more (R252) -/
  | idle
  /-- a decode fault (R78) -/
  | fault (f : Fault)
  /-- a command -/
  | command (i : Instr)
deriving DecidableEq, Repr

/-- The fault of the machine for a decode fault (R78), at the header's index (R211). -/
def decodeFault (e : DecodeError) (cp : Nat) : Fault :=
  match e with
  | .illegalCommand => .illegalCommand cp
  | .truncatedCommand => .truncatedCommand cp
  | .illegalOperand => .illegalOperand cp

/-- The fetch (R81): at the end of the stream nothing is fetched (R252), else the words from `cp` on are decoded. -/
def fetch (s : State) : Fetched :=
  if s.cp = s.cs.length then .idle
  else
    match decode (s.cs.drop s.cp) with
    | .ok (i, _) => .command i
    | .error e => .fault (decodeFault e s.cp)

/-- `ws` laid over the stream from index `at` on; a stream that ends before it is filled up with zero words. -/
def overlay (cs : List Word) (start : Nat) (ws : List Word) : List Word :=
  cs.take start ++ List.replicate (start - cs.length) 0#32 ++ ws ++ cs.drop (start + ws.length)

/-- `s` with the words of an opcode-table instruction at its cursor. -/
def placeWords (s : State) (nbits w : Nat) : State := { s with cs := overlay s.cs s.cp (tableWords nbits w) }

end Sys2Proof.Machine
end

