-- ==== Sys2Proof/Machine/Step.lean ====
section
/-! DEFINITION. One step: one command, fetched at the cursor and executed whole (R6, R70, R81). -/

namespace Sys2Proof.Machine

/-- One step (R6, R70). At the end of the stream the engine waits for the host's next command and nothing changes (R252; log entry
3). -/
def step (s : State) : Host.Outcome State Fault Refusal :=
  match fetch s with
  | .idle => .next s
  | .fault f => .fault f
  | .command i => exec i s

/-- `s` with one instruction's words where the next step fetches: in `CS` from `cp` on. -/
def State.withFetchWord (s : State) (nbits w : Nat) : State := placeWords s nbits w

end Sys2Proof.Machine
end

