-- ==== Sys2Proof/Machine/HostPort.lean ====
section
/-! DEFINITION. What the host may do between two commands (R17, R66, R245) and nothing else: append command words, read and write
cells of `FB`, reset the hardware. The host has no move during a step. -/

namespace Sys2Proof.Machine

/-- A control update or an audio-block request (R245): words appended to `CS`; nothing at or before `cp` changes (R65). -/
def State.hostAppend (s : State) (ws : List Word) : State := { s with cs := s.cs ++ ws }

/-- The host writes cell `a` of `FB` (R66): none where `FB` has no such cell (R54). -/
def State.hostWrite (s : State) (a : Nat) (v : V) : Option State :=
  if a < fbCells Config.cfg then some { s with frames := s.frames.write a v } else none

/-- The host reads cell `a` of `FB` (R66): none where `FB` has no such cell (R54). A read changes nothing (R58). -/
def State.hostRead (s : State) (a : Nat) : Option V :=
  if a < fbCells Config.cfg then some (s.frames.read a) else none

/-- A hardware reset with a new stream, `cp = 0` (R230, R245). -/
def launch (cs : List Word) : State := { State.reset with cs := cs }

end Sys2Proof.Machine
end

