-- ==== Sys2Proof/Machine/Run.lean ====
section
/-! DEFINITION. A run over the words in `CS` and how it ends (R251, R252). -/

namespace Sys2Proof.Machine

/-- How a run stands after some steps (R252). -/
inductive Ending where
  /-- `cp` equals the length of `CS` -/
  | finished (s : State)
  /-- a command faulted: there is no state and no next step (R211) -/
  | faulted (f : Fault)
  /-- an instruction without a meaning (no arm of this model gives it) -/
  | refused (r : Refusal)
  /-- the steps were used up before either -/
  | running (s : State)
deriving DecidableEq, Repr

/-- The stream is used up (R252). -/
def State.isFinished (s : State) : Bool := s.cp == s.cs.length

/-- At most `n` commands, stopping at the end of the stream or at the first fault (R252). -/
def runFor : Nat → State → Ending
  | 0, s => if s.isFinished then .finished s else .running s
  | n + 1, s =>
    if s.isFinished then .finished s
    else
      match step s with
      | .next t => runFor n t
      | .fault f => .faulted f
      | .refused r => .refused r

/-- The run over the whole stream (R252): each command takes at least one word, so the words left are enough steps (R251). -/
def runStream (s : State) : Ending := runFor (s.cs.length - s.cp) s

end Sys2Proof.Machine
end

