-- ==== Sys2Proof/Safety.lean ====
section
/-! DEFINITION. The invariants of the state (R36, R174), the contracts a processing command is under (R153, R241 to R243), and what a
block computes where no phase leaves its range, in the terms the statements use. -/

namespace Sys2Proof.Machine

/-- Every phase is in `[0,1)` (R23, R174). -/
def State.PhaseInRange (s : State) : Prop := ∀ i, 0 ≤ s.ph.get i ∧ s.ph.get i < 1

/-- The matrix is all unwritten, or all written with coefficients in `[0,1]` (R26, R36, R144). -/
def State.MatrixWhole (s : State) : Prop :=
  (∀ i, s.mx.get i = .undef) ∨ (∀ i, ∃ v, s.mx.get i = .val v ∧ 0 ≤ v ∧ v ≤ 1)

/-- The frame buffer is in canonical form and lists only cells `FB` has (R54). -/
def State.FramesCanonical (s : State) : Prop := s.frames.wf = true ∧ s.frames.below (fbCells Config.cfg) = true

/-- The cursor has not run past the stream (R30, R252). -/
def State.CursorInStream (s : State) : Prop := s.cp ≤ s.cs.length

/-- What every reachable state satisfies. -/
structure State.Inv (s : State) : Prop where
  phase : s.PhaseInRange
  matrix : s.MatrixWhole
  frames : s.FramesCanonical
  cursor : s.CursorInStream

/-- The registers a processing command reads are written, with the values of `p` (R153 check (1)). -/
structure Params.Of (p : Params) (s : State) : Prop where
  inc : ∀ i, s.inc.get i = .val (p.inc.get i)
  mx : ∀ i, s.mx.get i = .val (p.mx.get i)
  feedback : s.feedback = .val p.feedback
  modindex : s.modindex = .val p.modindex
  bitcrush : s.bitcrush = p.bitcrush
  decimate : s.decimate = p.decimate
  drive : s.drive = p.drive

/-- Strictly positive levels and a drive that is not 0 (R243). -/
def Params.LevelsLegal (p : Params) : Prop := 0 < p.decimate ∧ 0 < p.bitcrush ∧ p.drive ≠ 0

/-- The increment bound (R241). -/
def Params.IncrementsBounded (p : Params) : Prop := ∀ i, 0 ≤ p.inc.get i ∧ p.inc.get i < 1

/-- What the state gives a block to start from (R152). -/
def State.block (s : State) : Block := ⟨s.ph, s.fb, s.frames⟩

/-- The phase a rail is taken at (R156, R157), without the range check. -/
def plainPhase (c : Config) (mode : Mode) (p : Params) (inp : Rails) (i : Fin 6) (x : Chain) (r : Rail) : V :=
  match mode with
  | .am => x.ph.get i
  | .fm => wrapOnce (phaseSum c p inp i x r)

/-- One voice of a frame (R155), without the range checks. -/
def plainVoice (c : Config) (mode : Mode) (p : Params) (inp : Rails) (i : Fin 6) (x : Chain) : Chain :=
  voiceUpdate mode p i x
    ⟨railOutput c mode p inp i x .left (plainPhase c mode p inp i x .left),
     railOutput c mode p inp i x .right (plainPhase c mode p inp i x .right)⟩
    (advancePhase (x.ph.get i) (p.inc.get i))

/-- The six voices of a frame (R155), without the range checks. -/
def plainVoices (c : Config) (mode : Mode) (p : Params) (inp : Rails) : List (Fin 6) → Chain → Chain
  | [], x => x
  | i :: is, x => plainVoices c mode p inp is (plainVoice c mode p inp i x)

/-- Frame `k` (R152, R155), without the range checks. -/
def plainFrame (c : Config) (mode : Mode) (p : Params) (k : Nat) (b : Block) : Block :=
  let x := plainVoices c mode p (frameInput b.frames k) ascending (frameStart b)
  ⟨x.ph, x.fb,
    fbWrite (fbWrite b.frames k .left (normalise mode p x.acc.left)) k .right (normalise mode p x.acc.right)⟩

/-- `n` frames from frame `k` on (R152), without the range checks. -/
def plainFrames (c : Config) (mode : Mode) (p : Params) : Nat → Nat → Block → Block
  | 0, _, b => b
  | n + 1, k, b => plainFrames c mode p n (k + 1) (plainFrame c mode p k b)

/-- The FM phase sums of the voices of a frame, both rails of each (R157, R242). -/
def voiceSums (c : Config) (p : Params) (inp : Rails) : List (Fin 6) → Chain → List V
  | [], _ => []
  | i :: is, x =>
    phaseSum c p inp i x .left :: phaseSum c p inp i x .right :: voiceSums c p inp is (plainVoice c .fm p inp i x)

/-- Every FM phase sum of `n` frames from frame `k` on: each frame, voice and rail (R242). -/
def blockSums (c : Config) (p : Params) : Nat → Nat → Block → List V
  | 0, _, _ => []
  | n + 1, k, b =>
    voiceSums c p (frameInput b.frames k) ascending (frameStart b) ++ blockSums c p n (k + 1) (plainFrame c .fm p k b)

/-- The input amplitude bound of a block in FM mode (R242): every phase sum lies in `[-1, 2)`. -/
def FmInputBounded (c : Config) (p : Params) (count : Nat) (s : State) : Prop :=
  ∀ q ∈ blockSums c p count 0 s.block, -1 ≤ q ∧ q < 2

/-- A phase after `n` advances by `inc` (R168), without the range checks. -/
def phaseAfter (inc : V) : Nat → V → V
  | 0, q => q
  | n + 1, q => phaseAfter inc n (advancePhase q inc)

/-- The advances of a block (R168, R241): at each of its frames every sum `ph[i] + inc[i]` lies in `[0, 2)`. -/
def AdvancesBounded (p : Params) (count : Nat) (s : State) : Prop :=
  ∀ k, k < count → ∀ i, 0 ≤ phaseAfter (p.inc.get i) k (s.ph.get i) + p.inc.get i ∧
    phaseAfter (p.inc.get i) k (s.ph.get i) + p.inc.get i < 2

/-- The state a processing command leaves when no phase leaves its range (R152, R175). -/
def blockResult (c : Config) (mode : Mode) (p : Params) (count : Nat) (s : State) : State :=
  s.setBlock (plainFrames c mode p count 0 s.block).ph (plainFrames c mode p count 0 s.block).fb
    (plainFrames c mode p count 0 s.block).frames

/-- The four frequency commands (R100). -/
def isFrequency : Instr → Bool
  | .init => false
  | .setFreeze _ => false
  | .setFeedback _ => false
  | .setModindex _ => false
  | .setBitcrush _ => false
  | .setDecimate _ => false
  | .setDrive _ => false
  | .freqFree _ _ _ => true
  | .freqChord _ _ _ _ => true
  | .freqRational _ _ _ => true
  | .freqHarmonic _ _ _ _ => true
  | .setStructure _ => false
  | .procFm _ => false
  | .procAm _ => false

/-- The frame count of a processing command (R151), none for the others. -/
def frameCount : Instr → Option Nat
  | .init => none
  | .setFreeze _ => none
  | .setFeedback _ => none
  | .setModindex _ => none
  | .setBitcrush _ => none
  | .setDecimate _ => none
  | .setDrive _ => none
  | .freqFree _ _ _ => none
  | .freqChord _ _ _ _ => none
  | .freqRational _ _ _ => none
  | .freqHarmonic _ _ _ _ => none
  | .setStructure _ => none
  | .procFm count => some count
  | .procAm count => some count

/-- The faults a command's own rule may raise at cursor `cp`, from the table of R213; its code 4, `UNWRITTEN_READ`, is R22's. -/
def mayRaise (cp : Nat) : Instr → List Fault
  | .init => []
  | .setFreeze _ => []
  | .setFeedback _ => []
  | .setModindex _ => []
  | .setBitcrush _ => []
  | .setDecimate _ => []
  | .setDrive _ => []
  | .freqFree _ _ _ => [.unwrittenRead cp]
  | .freqChord _ _ _ _ => [.unwrittenRead cp, .chordIndex cp]
  | .freqRational _ _ _ => [.unwrittenRead cp, .maxdenZero cp, .ratioNonpositive cp]
  | .freqHarmonic _ _ _ _ => [.unwrittenRead cp, .sqrtDomain cp]
  | .setStructure _ => [.structRange cp]
  | .procFm _ =>
    [.fbRange cp, .unwrittenRead cp, .decimateLevel cp, .bitcrushLevel cp, .driveZero cp, .phaseRange cp]
  | .procAm _ =>
    [.fbRange cp, .unwrittenRead cp, .decimateLevel cp, .bitcrushLevel cp, .driveZero cp, .phaseRange cp]

/-- The registers a processing command reads before frame 0 that hold no value (R153 check (1)). -/
def State.LacksValue (s : State) : Prop :=
  (∃ i, s.inc.get i = .undef) ∨ (∃ i, s.mx.get i = .undef) ∨ s.feedback = .undef ∨ s.modindex = .undef

/-- Voice `i` is a candidate of a frequency command under freeze bit `fz` (R101): every voice at 0, the odd ones at 1. -/
def candidate (fz : Bool) (i : Fin 6) : Bool := !(fz && decide (i.val % 2 = 0))

end Sys2Proof.Machine
end

