-- ==== Sys2Proof/Certificates/Slice0/Obligations.lean ====
section
/-! DEFINITION. The statements for the provers, one Prop each, from the numbered rules of the spec. A result holds for every
configuration: `Config.cfg` is some legal configuration and nothing else is known of it (R9, R234). -/

open Sys2Proof Sys2Proof.Machine

/-! Encoding. -/

/-- R85: the worked encodings, both ways. -/
def Obligations.SpecWordsDecode : Prop :=
  ∀ i ws, (i, ws) ∈ ([
      (.init, [0x01000000#32]),
      (.setFreeze true, [0x10000001#32]),
      (.setFeedback (1 / 2), [0x11000000#32, 0x3F000000#32]),
      (.setStructure 0, [0x30000000#32, 0x00000000#32]),
      (.freqFree 60 12 0, [0x20000000#32, 0x42700000#32, 0x41400000#32, 0x00000000#32]),
      (.freqRational 8 (3 / 2) 60, [0x22000008#32, 0x3FC00000#32, 0x42700000#32]),
      (.procAm 3, [0x41000003#32])] : List (Instr × List Word)) →
    decode ws = .ok (i, []) ∧ encode i = ws

/-- R71, R74, R75, R77: no operand of a well-formed command is lost by its words, whatever words follow. -/
def Obligations.DecodeOfEncodeIsTheCommand : Prop :=
  ∀ (i : Instr) (rest : List Word), i.wellFormed = true → decode (encode i ++ rest) = .ok (i, rest)

/-- R71, R74, R75, R77: a command's words are its encoding, but for the second word of the value 0 (R75). -/
def Obligations.EncodeOfDecodeIsTheWords : Prop :=
  ∀ (ws : List Word) (i : Instr) (rest : List Word), decode ws = .ok (i, rest) →
    0x80000000#32 ∉ ws.take i.words → ws = encode i ++ rest

/-- R72, R75, R76: what the decoder answers is well formed and as long as its opcode says. -/
def Obligations.DecodedCommandsAreWellFormed : Prop :=
  ∀ (ws : List Word) (i : Instr) (rest : List Word), decode ws = .ok (i, rest) →
    i.wellFormed = true ∧ i.words ≤ ws.length ∧ rest = ws.drop i.words

/-- R78: the three decode faults. A legal header has a listed opcode and no must-be-zero bit set. -/
def Obligations.EachBadEncodingHasItsDecodeFault : Prop :=
  let legal (h : Word) (o : Opcode) : Prop :=
    opField h = o.code ∧
      match o.format with
      | .z => immField h = 0
      | .b => immField h < 2
      | .n => True
      | .v1 => immField h = 0
      | .v3 => immField h = 0
      | .v4 => immField h = 0
      | .nv2 => True
  (∀ (h : Word) (rest : List Word), decode (h :: rest) = .error .illegalCommand ↔ ∀ o, ¬legal h o) ∧
  (∀ rest, decode (0x00000000#32 :: rest) = .error .illegalCommand) ∧
  (∀ rest, decode (0xFFFFFFFF#32 :: rest) = .error .illegalCommand) ∧
  (∀ (h : Word) (o : Opcode) (rest : List Word), legal h o →
    (decode (h :: rest) = .error .truncatedCommand ↔ rest.length < o.format.operandWords)) ∧
  (∀ (h : Word) (o : Opcode) (rest : List Word), legal h o → o.format.operandWords ≤ rest.length →
    (decode (h :: rest) = .error .illegalOperand ↔
      ∃ w ∈ rest.take o.format.operandWords, (w.extractLsb' 23 8).toNat = 255)) ∧
  (∀ (s : State) (e : DecodeError), s.cp < s.cs.length → decode (s.cs.drop s.cp) = .error e →
    step s = .fault (match e with
      | .illegalCommand => .illegalCommand s.cp
      | .truncatedCommand => .truncatedCommand s.cp
      | .illegalOperand => .illegalOperand s.cp))

/-- R75: the value of an operand word. -/
def Obligations.OperandWordsHaveTheirExactValue : Prop :=
  ∀ w : Word,
    let s := (w.extractLsb' 31 1).toNat
    let e := (w.extractLsb' 23 8).toNat
    let f := (w.extractLsb' 0 23).toNat
    (e = 255 → value32 w = none) ∧
    (e = 0 → value32 w = some ((-1) ^ s * (f : V) * 2 ^ (-149 : Int))) ∧
    (e ≠ 255 → e ≠ 0 → value32 w = some ((-1) ^ s * ((2 : V) ^ 23 + (f : V)) * 2 ^ ((e : Int) - 150)))

/-! The step. -/

/-- R70, R81, R252: a step runs the command its words decode to; a decode fault is the step's; at the end of the stream the engine
waits (log entry 3: that waiting is a step that changes nothing is the model's reading of R252). -/
def Obligations.StepRunsTheCommandAtTheCursor : Prop :=
  (∀ (s : State) (i : Instr) (rest : List Word), decode (s.cs.drop s.cp) = .ok (i, rest) →
    i.wellFormed = true ∧ step s = exec i s) ∧
  (∀ (s : State) (e : DecodeError), s.cp ≠ s.cs.length → decode (s.cs.drop s.cp) = .error e →
    step s = .fault (decodeFault e s.cp)) ∧
  (∀ s : State, s.cp = s.cs.length → step s = .next s)

/-- R30, R72, R73: after a command that does not fault the cursor has moved by the command's length and the stream is as it was. -/
def Obligations.EveryCommandMovesTheCursorByItsLength : Prop :=
  ∀ (i : Instr) (s t : State), exec i s = .next t → t.cp = s.cp + i.words ∧ t.cs = s.cs

/-- R210: a command has one of two outcomes; none is refused. -/
def Obligations.NoCommandIsRefused : Prop :=
  (∀ (i : Instr) (s : State) (r : Refusal), exec i s ≠ .refused r) ∧ (∀ (s : State) (r : Refusal), step s ≠ .refused r)

/-- R211, R213: a command raises only the faults the table gives it, with its own cursor; a step raises those or a decode fault. -/
def Obligations.FaultsAreThoseOfTheTable : Prop :=
  (∀ (i : Instr) (s : State) (f : Fault), exec i s = .fault f → f ∈ mayRaise s.cp i) ∧
  (∀ (s : State) (f : Fault), step s = .fault f →
    f = .illegalCommand s.cp ∨ f = .truncatedCommand s.cp ∨ f = .illegalOperand s.cp ∨ ∃ i, f ∈ mayRaise s.cp i)

/-- R24, R26, R29, R37: which commands may change which piece of state. -/
def Obligations.OnlyListedCommandsChangeEachRegister : Prop :=
  ∀ (i : Instr) (s t : State), exec i s = .next t →
    (t.ph ≠ s.ph → i = .init ∨ ∃ n, frameCount i = some n) ∧
    (t.fb ≠ s.fb → i = .init ∨ ∃ n, frameCount i = some n) ∧
    (t.inc ≠ s.inc → i = .init ∨ isFrequency i = true) ∧
    (t.mx ≠ s.mx → i = .init ∨ ∃ v, i = .setStructure v) ∧
    (t.freeze ≠ s.freeze → i = .init ∨ ∃ b, i = .setFreeze b) ∧
    (t.feedback ≠ s.feedback → i = .init ∨ ∃ v, i = .setFeedback v) ∧
    (t.modindex ≠ s.modindex → i = .init ∨ ∃ v, i = .setModindex v) ∧
    (t.bitcrush ≠ s.bitcrush → i = .init ∨ ∃ v, i = .setBitcrush v) ∧
    (t.decimate ≠ s.decimate → i = .init ∨ ∃ v, i = .setDecimate v) ∧
    (t.drive ≠ s.drive → i = .init ∨ ∃ v, i = .setDrive v) ∧
    (t.frames ≠ s.frames → ∃ n, frameCount i = some n)

/-! Reset and INIT. -/

/-- R35: the registers after a hardware reset, and after INIT, which leaves FB; the `FB` row of its table gives no value to state. -/
def Obligations.ResetLeavesTheStatedValues : Prop :=
  (∀ i, State.reset.ph.get i = 0) ∧ (∀ i r, (State.reset.fb.get i).get r = 0) ∧
  (∀ i, State.reset.inc.get i = .undef) ∧ (∀ i, State.reset.mx.get i = .undef) ∧
  State.reset.freeze = .undef ∧ State.reset.feedback = .undef ∧ State.reset.modindex = .undef ∧
  State.reset.decimate = Config.cfg.decimateReset ∧ State.reset.bitcrush = Config.cfg.bitcrushReset ∧
  State.reset.drive = Config.cfg.driveReset ∧ State.reset.cp = 0 ∧
  (∀ s t : State, exec .init s = .next t → t = { State.reset with frames := s.frames, cs := s.cs, cp := s.cp + 1 })

/-- R35, R54: a frame-buffer cell nothing has written reads as the free value of its address, whatever else is written (log entry 8: one
such function, of which nothing is known, is the model's own). -/
def Obligations.UnwrittenFrameCellsHoldTheirFreeValue : Prop :=
  (∀ a, State.reset.frames.read a = Config.fbPowerOn a) ∧
  (∀ s t : State, ∀ a b v, s.frames.read b = Config.fbPowerOn b → a ≠ b → s.hostWrite a v = some t →
    t.frames.read b = Config.fbPowerOn b)

/-- R197: INIT completes in every state, with every register at its reset value and FB, CS unchanged. -/
def Obligations.InitResetsRegistersAndKeepsFrames : Prop :=
  ∀ s : State, exec .init s = .next { State.reset with frames := s.frames, cs := s.cs, cp := s.cp + 1 }

/-- R233: what completes right after reset. -/
def Obligations.SettersStructureAndEmptyBlocksWorkAfterReset : Prop :=
  (∀ (i : Instr), (i = .init ∨ (∃ b, i = .setFreeze b) ∨ (∃ v, i = .setFeedback v) ∨ (∃ v, i = .setModindex v) ∨
      (∃ v, i = .setBitcrush v) ∨ (∃ v, i = .setDecimate v) ∨ (∃ v, i = .setDrive v) ∨ i = .procFm 0 ∨ i = .procAm 0) →
    ∃ t, exec i State.reset = .next t) ∧
  (∀ v : V, 0 ≤ v → v < 1 → ∃ t, exec (.setStructure v) State.reset = .next t)

/-- R22, R101, R232: right after reset every frequency command, and every processing command of a non-empty block the buffer holds,
stops with UNWRITTEN_READ. -/
def Obligations.UnwrittenRegistersFaultAfterReset : Prop :=
  ∀ i : Instr,
    (isFrequency i = true ∨ ∃ n, frameCount i = some n ∧ 1 ≤ n ∧ n ≤ Config.cfg.fbFrames) →
      exec i State.reset = .fault (.unwrittenRead 0)

/-! Parameter commands. -/

/-- R190 to R196: a setter completes in every state; it stores its operand, whatever it is, and moves the cursor. -/
def Obligations.SettersStoreTheirOperand : Prop :=
  ∀ (s : State) (b : Bool) (v : V),
    exec (.setFreeze b) s = .next { s with freeze := .val b, cp := s.cp + 1 } ∧
    exec (.setFeedback v) s = .next { s with feedback := .val v, cp := s.cp + 2 } ∧
    exec (.setModindex v) s = .next { s with modindex := .val v, cp := s.cp + 2 } ∧
    exec (.setBitcrush v) s = .next { s with bitcrush := v, cp := s.cp + 2 } ∧
    exec (.setDecimate v) s = .next { s with decimate := v, cp := s.cp + 2 } ∧
    exec (.setDrive v) s = .next { s with drive := v, cp := s.cp + 2 }

/-- R37, R190: INIT and the setters leave every cell of FB and the stream as they were; a setter leaves the voice registers, the matrix
and every parameter register but its own. -/
def Obligations.ParameterCommandsFrame : Prop :=
  ∀ (i : Instr) (s t : State), exec i s = .next t →
    ((i = .init ∨ (∃ b, i = .setFreeze b) ∨ (∃ v, i = .setFeedback v) ∨ (∃ v, i = .setModindex v) ∨
        (∃ v, i = .setBitcrush v) ∨ (∃ v, i = .setDecimate v) ∨ (∃ v, i = .setDrive v)) →
      t.cs = s.cs ∧ ∀ a, t.frames.read a = s.frames.read a) ∧
    (((∃ b, i = .setFreeze b) ∨ (∃ v, i = .setFeedback v) ∨ (∃ v, i = .setModindex v) ∨
        (∃ v, i = .setBitcrush v) ∨ (∃ v, i = .setDecimate v) ∨ (∃ v, i = .setDrive v)) →
      t.ph = s.ph ∧ t.inc = s.inc ∧ t.fb = s.fb ∧ t.mx = s.mx ∧
      ((∃ b, i = .setFreeze b) ∨ t.freeze = s.freeze) ∧ ((∃ v, i = .setFeedback v) ∨ t.feedback = s.feedback) ∧
      ((∃ v, i = .setModindex v) ∨ t.modindex = s.modindex) ∧ ((∃ v, i = .setBitcrush v) ∨ t.bitcrush = s.bitcrush) ∧
      ((∃ v, i = .setDecimate v) ∨ t.decimate = s.decimate) ∧ ((∃ v, i = .setDrive v) ∨ t.drive = s.drive))

/-! Frequency commands. -/

/-- R101: the freeze gate of the four frequency commands. -/
def Obligations.FreezeGatesTheEvenVoices : Prop :=
  (∀ (i : Instr) (s : State), isFrequency i = true → s.freeze = .undef → exec i s = .fault (.unwrittenRead s.cp)) ∧
  (∀ (i : Instr) (s t : State), isFrequency i = true → s.freeze = .val true → exec i s = .next t →
    ∀ j : Fin 6, j.val % 2 = 0 → t.inc.get j = s.inc.get j) ∧
  (∀ (i : Instr) (s t : State), isFrequency i = true → s.freeze = .val false → exec i s = .next t →
    (∃ a b c d, i = .freqChord a b c d) ∨ ∀ j : Fin 6, ∃ v, t.inc.get j = .val v) ∧
  (∀ (i : Instr) (s : State) (f : Fault), isFrequency i = true → s.freeze = .val true → exec i s = .fault f →
    f = .sqrtDomain s.cp → ∃ base spread fine detune, i = .freqHarmonic base spread fine detune ∧
      ∃ j : Fin 6, j.val % 2 = 1 ∧ 1 + detune * ((j.val : V) * spread) ^ 2 < 0)

/-- R104, R125: FREQ_FREE completes whenever FREEZE is written, whatever the operands and whatever the increments come to. -/
def Obligations.FreqFreeWritesItsIncrements : Prop :=
  ∀ (note spread fine : V) (s : State) (fz : Bool), s.freeze = .val fz →
    exec (.freqFree note spread fine) s = .next { s with
      inc := Six.ofFn (fun i =>
        if candidate fz i then
          .val (Config.cfg.fratio (note + (i.val : V) * spread + fine - Config.cfg.refNote) * Config.cfg.refFreq)
        else s.inc.get i)
      cp := s.cp + 4 }

/-- R107 to R112: FREQ_CHORD completes whenever FREEZE is written and the chord index is a row; a voice outside the closed guard window
keeps its increment. -/
def Obligations.FreqChordWritesItsIncrements : Prop :=
  ∀ (note spread fine chord : V) (s : State) (fz : Bool), s.freeze = .val fz → 0 ≤ ⌊chord * 12⌋ → ⌊chord * 12⌋ ≤ 10 →
    let T : Nat → V := fun j => Config.cfg.chordRom (6 * ⌊chord * 12⌋.toNat + j)
    let n : Fin 6 → V := fun i => note + (i.val : V) * spread
    let o : Fin 6 → V := fun i => 12 * (⌊n i / 12⌋ : V)
    let arg : Fin 6 → V := fun i => o i + T (nearest T (n i - o i)) + fine - Config.cfg.refNote
    exec (.freqChord note spread fine chord) s = .next { s with
      inc := Six.ofFn (fun i =>
        if candidate fz i = true ∧ -64 ≤ arg i ∧ arg i ≤ 64 then .val (Config.cfg.fratio (arg i) * Config.cfg.refFreq)
        else s.inc.get i)
      cp := s.cp + 5 }

/-- R115 to R119: FREQ_RATIONAL completes whenever FREEZE is written, the bound is not 0 and the ratio is positive. -/
def Obligations.FreqRationalWritesItsIncrements : Prop :=
  ∀ (n : Nat) (spread fine : V) (s : State) (fz : Bool), s.freeze = .val fz → n ≠ 0 → 0 < spread →
    exec (.freqRational n spread fine) s = .next { s with
      inc := Six.ofFn (fun i =>
        if candidate fz i then
          .val (Config.cfg.fratio (fine - Config.cfg.refNote) * Config.cfg.refFreq *
            ((1 + ((ratApprox Config.cfg.ratTie ((foldRatio (spread ^ i.val)).1 - 1) n).1 : V) /
                ((ratApprox Config.cfg.ratTie ((foldRatio (spread ^ i.val)).1 - 1) n).2 : V)) *
              2 ^ (foldRatio (spread ^ i.val)).2))
        else s.inc.get i)
      cp := s.cp + 3 }

/-- R120 to R123: FREQ_HARMONIC completes whenever FREEZE is written and no candidate voice has a negative radicand. -/
def Obligations.FreqHarmonicWritesItsIncrements : Prop :=
  ∀ (base spread fine detune : V) (s : State) (fz : Bool), s.freeze = .val fz →
    (∀ i : Fin 6, candidate fz i = true → 0 ≤ 1 + detune * ((i.val : V) * spread) ^ 2) →
    let fund := Config.cfg.fratio (fine - Config.cfg.refNote) * Config.cfg.refFreq
    let h : Fin 6 → Int := fun i => ⌊base + (i.val : V) * spread⌋
    let w : Fin 6 → V := fun i => Config.cfg.sqrt (1 + detune * ((i.val : V) * spread) ^ 2)
    exec (.freqHarmonic base spread fine detune) s = .next { s with
      inc := Six.ofFn (fun i =>
        if candidate fz i then .val (if 0 ≤ h i then fund * (h i : V) * w i else -fund / ((h i : V) - 2) * w i)
        else s.inc.get i)
      cp := s.cp + 5 }

/-- R107, R119, R121, R216: which operand fault each frequency command raises once FREEZE is written, the first met first. -/
def Obligations.FrequencyCommandsFaultOnTheirOperands : Prop :=
  ∀ (s : State) (fz : Bool), s.freeze = .val fz →
    (∀ note spread fine chord : V, ⌊chord * 12⌋ < 0 ∨ 10 < ⌊chord * 12⌋ →
      exec (.freqChord note spread fine chord) s = .fault (.chordIndex s.cp)) ∧
    (∀ spread fine : V, exec (.freqRational 0 spread fine) s = .fault (.maxdenZero s.cp)) ∧
    (∀ (n : Nat) (spread fine : V), n ≠ 0 → spread ≤ 0 →
      exec (.freqRational n spread fine) s = .fault (.ratioNonpositive s.cp)) ∧
    (∀ base spread fine detune : V,
      (∃ i : Fin 6, candidate fz i = true ∧ 1 + detune * ((i.val : V) * spread) ^ 2 < 0) →
      exec (.freqHarmonic base spread fine detune) s = .fault (.sqrtDomain s.cp))

/-- R37, R100: a frequency command leaves every register but the increments, and every cell of FB. -/
def Obligations.FrequencyCommandsFrame : Prop :=
  ∀ (i : Instr) (s t : State), isFrequency i = true → exec i s = .next t →
    t.ph = s.ph ∧ t.fb = s.fb ∧ t.mx = s.mx ∧ t.freeze = s.freeze ∧ t.feedback = s.feedback ∧ t.modindex = s.modindex ∧
    t.bitcrush = s.bitcrush ∧ t.decimate = s.decimate ∧ t.drive = s.drive ∧ t.cs = s.cs ∧
    ∀ a, t.frames.read a = s.frames.read a

/-- R101, R246: repeating a frequency command changes no increment. -/
def Obligations.RepeatingAFrequencyCommandChangesNothing : Prop :=
  ∀ (i : Instr) (s t : State), isFrequency i = true → exec i s = .next t →
    ∃ u, exec i t = .next u ∧ u.inc = t.inc

/-- R100: a frequency command reads no state but FREEZE, not even the old increments: from two states with the same FREEZE it completes
or not alike, and each voice gets the same increment in both or keeps its old one in both. -/
def Obligations.FrequencyCommandsReadOnlyFreeze : Prop :=
  ∀ (i : Instr) (s s' t : State), isFrequency i = true → s'.freeze = s.freeze → exec i s = .next t →
    ∃ t', exec i s' = .next t' ∧
      ∀ j, t'.inc.get j = t.inc.get j ∨ (t.inc.get j = s.inc.get j ∧ t'.inc.get j = s'.inc.get j)

/-- R16, R122, R123, R234: every increment a frequency command writes is at least 0, and above 0 unless it is FREQ_HARMONIC's. -/
def Obligations.WrittenIncrementsAreNotNegative : Prop :=
  ∀ (i : Instr) (s t : State) (j : Fin 6) (v : V), isFrequency i = true → exec i s = .next t →
    t.inc.get j ≠ s.inc.get j → t.inc.get j = .val v →
    0 ≤ v ∧ ((∃ base spread fine detune, i = .freqHarmonic base spread fine detune) ∨ 0 < v)

/-- R111, R124: FREQ_CHORD writes no increment for an argument outside the guard window. -/
def Obligations.ChordIncrementsStayInTheGuardBand : Prop :=
  ∀ (note spread fine chord : V) (s t : State) (j : Fin 6), exec (.freqChord note spread fine chord) s = .next t →
    t.inc.get j = s.inc.get j ∨
      ∃ arg : V, -64 ≤ arg ∧ arg ≤ 64 ∧ t.inc.get j = .val (Config.cfg.fratio arg * Config.cfg.refFreq)

/-- R105: the nearest-value search, its definition and what it minimises, ties to the higher value. -/
def Obligations.NearestMinimisesTheDistance : Prop :=
  ∀ (T : Nat → V) (q : V), (∀ j, j < 5 → T j ≤ T (j + 1)) →
    nearest T q ≤ 5 ∧
    (nearest T q < 5 → q < (T (nearest T q) + T (nearest T q + 1)) / 2) ∧
    (∀ j, j < nearest T q → ¬q < (T j + T (j + 1)) / 2) ∧
    (∀ j, j < 6 → |T (nearest T q) - q| ≤ |T j - q|) ∧
    (∀ j, j < 6 → |T j - q| = |T (nearest T q) - q| → T j ≤ T (nearest T q))

/-- R106: the binary search gives the same index, in at most 3 turns of its loop. -/
def Obligations.BinarySearchIsTheNearestSearch : Prop :=
  ∀ (T : Nat → V) (q : V) (fuel : Nat), (∀ j, j < 5 → T j ≤ T (j + 1)) → 3 ≤ fuel →
    nearestLoop T q fuel 0 5 = nearest T q

/-- R113: the bounded rational approximation is a nearest fraction, in lowest terms, and RAT_TIE decides between two. -/
def Obligations.RationalApproximationIsNearest : Prop :=
  ∀ (tie : RatTie) (t : V) (n : Nat), 0 ≤ t → t < 1 → 1 ≤ n →
    let p := (ratApprox tie t n).1
    let q := (ratApprox tie t n).2
    1 ≤ q ∧ q ≤ n ∧ p ≤ q ∧ Nat.Coprime p q ∧
    (∀ (a : Int) (b : Nat), 1 ≤ b → b ≤ n → |t - (p : V) / (q : V)| ≤ |t - (a : V) / (b : V)|) ∧
    (∀ (a : Int) (b : Nat), 1 ≤ b → b ≤ n → (a : V) / (b : V) ≠ (p : V) / (q : V) →
      |t - (p : V) / (q : V)| = |t - (a : V) / (b : V)| →
      match tie with
      | .lower => (p : V) / (q : V) < t
      | .upper => t < (p : V) / (q : V))

/-- R115: folding a positive ratio. -/
def Obligations.FoldingBringsARatioIntoOneToTwo : Prop :=
  ∀ r : V, 0 < r → 1 ≤ (foldRatio r).1 ∧ (foldRatio r).1 < 2 ∧ (foldRatio r).1 * 2 ^ (foldRatio r).2 = r

/-! The modulation router. -/

/-- R141, R142, R143: SET_STRUCTURE completes exactly for an operand in [0,1) and writes all six coefficients by interpolation. -/
def Obligations.SetStructureInterpolatesTheMatrix : Prop :=
  ∀ (value : V) (s : State),
    (value < 0 ∨ 1 ≤ value → exec (.setStructure value) s = .fault (.structRange s.cp)) ∧
    (0 ≤ value → value < 1 →
      let k := ⌊value * 7⌋
      let f := value * 7 - (k : V)
      let y := f * (Config.cfg.rcosSize : V)
      let j := ⌊y⌋
      let w := Config.cfg.rcosRom j.toNat +
        (Config.cfg.rcosRom (j.toNat + 1) - Config.cfg.rcosRom j.toNat) * (y - (j : V))
      exec (.setStructure value) s = .next { s with
        mx := Six.ofFn (fun i => .val (Config.cfg.structRom (8 * i.val + k.toNat) +
          (Config.cfg.structRom (8 * i.val + k.toNat + 1) - Config.cfg.structRom (8 * i.val + k.toNat)) * w))
        cp := s.cp + 2 })

/-- R143's corner cases: at `value = k/7` the matrix is preset `k`, and at 0 it is all zero (R27). -/
def Obligations.StructureAtAPresetIsThePreset : Prop :=
  ∀ (k : Nat) (s t : State), k ≤ 6 → exec (.setStructure ((k : V) / 7)) s = .next t →
    (∀ i : Fin 6, t.mx.get i = .val (Config.cfg.structRom (8 * i.val + k))) ∧
    (k = 0 → ∀ i : Fin 6, t.mx.get i = .val 0)

/-- R144: in every legal configuration every coefficient SET_STRUCTURE writes is in [0,1]. -/
def Obligations.MatrixCoefficientsAreInUnitRange : Prop :=
  ∀ (c : Config) (value : V) (s t : State), c.Legal → setStructureWith c value s = .next t →
    ∀ i : Fin 6, ∃ v, t.mx.get i = .val v ∧ 0 ≤ v ∧ v ≤ 1

/-- R37, R140: SET_STRUCTURE leaves every register but the matrix, and every cell of FB. -/
def Obligations.StructureCommandFrame : Prop :=
  ∀ (value : V) (s t : State), exec (.setStructure value) s = .next t →
    t.ph = s.ph ∧ t.inc = s.inc ∧ t.fb = s.fb ∧ t.freeze = s.freeze ∧ t.feedback = s.feedback ∧ t.modindex = s.modindex ∧
    t.bitcrush = s.bitcrush ∧ t.decimate = s.decimate ∧ t.drive = s.drive ∧ t.cs = s.cs ∧
    ∀ a, t.frames.read a = s.frames.read a

/-! The processing commands. -/

/-- R151: the frame count. -/
def Obligations.FrameCountIsCheckedFirst : Prop :=
  ∀ (count : Nat) (s : State),
    (Config.cfg.fbFrames < count →
      exec (.procFm count) s = .fault (.fbRange s.cp) ∧ exec (.procAm count) s = .fault (.fbRange s.cp)) ∧
    (count = 0 → exec (.procFm count) s = .next { s with cp := s.cp + 1 } ∧
      exec (.procAm count) s = .next { s with cp := s.cp + 1 }) ∧
    (∀ t, 1 ≤ count → exec (.procFm count) s = .next t →
      ∃ p : Params, p.Of s ∧ t = (blockResult Config.cfg .fm p count s).advance 1) ∧
    (∀ t, 1 ≤ count → exec (.procAm count) s = .next t →
      ∃ p : Params, p.Of s ∧ t = (blockResult Config.cfg .am p count s).advance 1)

/-- R153: the checks made once before frame 0, in order. -/
def Obligations.BlockChecksFaultInOrder : Prop :=
  ∀ (i : Instr) (count : Nat) (s : State), frameCount i = some count → 1 ≤ count → count ≤ Config.cfg.fbFrames →
    (exec i s = .fault (.unwrittenRead s.cp) ↔ s.LacksValue) ∧
    (exec i s = .fault (.decimateLevel s.cp) ↔ ¬s.LacksValue ∧ s.decimate ≤ 0) ∧
    (exec i s = .fault (.bitcrushLevel s.cp) ↔ ¬s.LacksValue ∧ 0 < s.decimate ∧ s.bitcrush ≤ 0) ∧
    (exec i s = .fault (.driveZero s.cp) ↔
      ¬s.LacksValue ∧ 0 < s.decimate ∧ 0 < s.bitcrush ∧ Config.cfg.sat s.drive = 0) ∧
    (∀ t, exec i s = .next t → t.inc = s.inc ∧ t.mx = s.mx ∧ t.feedback = s.feedback ∧ t.modindex = s.modindex ∧
      t.decimate = s.decimate ∧ t.bitcrush = s.bitcrush ∧ t.drive = s.drive)

/-- R153, R168, R172, R241: PROC_AM whose levels pass completes, whatever the input, exactly when every advance of the block lies in
`[0, 2)`, as it does under the increment contract, and leaves what its frames compute; else it stops with PHASE_RANGE. -/
def Obligations.ProcAmCompletesUnderItsContracts : Prop :=
  ∀ (count : Nat) (s : State) (p : Params), p.Of s → p.LevelsLegal → 1 ≤ count → count ≤ Config.cfg.fbFrames →
    (p.IncrementsBounded → s.PhaseInRange → AdvancesBounded p count s) ∧
    (AdvancesBounded p count s → exec (.procAm count) s = .next ((blockResult Config.cfg .am p count s).advance 1)) ∧
    (¬AdvancesBounded p count s → exec (.procAm count) s = .fault (.phaseRange s.cp))

/-- R153, R157, R168, R171, R241, R242: PROC_FM whose levels pass completes exactly when every phase sum of the block lies in `[-1, 2)` and
every advance in `[0, 2)`, the latter as under the increment contract; else it stops with PHASE_RANGE. -/
def Obligations.ProcFmCompletesExactlyUnderItsInputBound : Prop :=
  ∀ (count : Nat) (s : State) (p : Params), p.Of s → p.LevelsLegal → 1 ≤ count → count ≤ Config.cfg.fbFrames →
    (p.IncrementsBounded → s.PhaseInRange → AdvancesBounded p count s) ∧
    (FmInputBounded Config.cfg p count s → AdvancesBounded p count s →
      exec (.procFm count) s = .next ((blockResult Config.cfg .fm p count s).advance 1)) ∧
    (¬FmInputBounded Config.cfg p count s → exec (.procFm count) s = .fault (.phaseRange s.cp)) ∧
    (¬AdvancesBounded p count s → exec (.procFm count) s = .fault (.phaseRange s.cp))

/-- R152, R155, R157, R163 to R170: every frame of an FM block of a state whose matrix is whole (R36), by the equations of its voices,
carry, histories, phases and output pair: `b k` is what frame `k` starts from and `b (k + 1)` what it leaves. -/
def Obligations.FmFrameFollowsItsEquations : Prop :=
  ∀ (count : Nat) (s t : State) (p : Params), s.MatrixWhole → p.Of s → exec (.procFm count) s = .next t →
    ∃ b : Nat → Block, b 0 = s.block ∧ b count = t.block ∧ ∀ k, k < count →
      ∃ (m : Fin 6 → V) (v : Fin 6 → Rail → V),
        m 0 = 1 ∧ (∀ i j : Fin 6, j.val = i.val + 1 → m j = v i .left * p.mx.get i) ∧
        (∀ i r, v i r = railSample Config.cfg p r (wrapOnce ((b k).ph.get i + (b k).frames.read (frameCell k r) +
          Config.cfg.fbOffset + ((b k).fb.get i).get r * p.feedback + m i * p.modindex))) ∧
        (∀ i, (b (k + 1)).ph.get i = if 1 ≤ (b k).ph.get i + p.inc.get i then (b k).ph.get i + p.inc.get i - 1
          else (b k).ph.get i + p.inc.get i) ∧
        (∀ i r, ((b (k + 1)).fb.get i).get r = ((b k).fb.get i).get r + 1 / 10 * (v i r - ((b k).fb.get i).get r)) ∧
        (∀ r, (b (k + 1)).frames.read (frameCell k r) =
          (∑ i : Fin 6, v i r * (1 - p.mx.get i)) / ((∑ i : Fin 6, (1 - p.mx.get i)) + 2)) ∧
        (∀ a, (∀ r, a ≠ frameCell k r) → (b (k + 1)).frames.read a = (b k).frames.read a)

/-- R152, R155, R156, R163 to R170: every frame of an AM block of a state whose matrix is whole (R36), by the equations of its voices,
carry, histories, phases and output pair. -/
def Obligations.AmFrameFollowsItsEquations : Prop :=
  ∀ (count : Nat) (s t : State) (p : Params), s.MatrixWhole → p.Of s → exec (.procAm count) s = .next t →
    ∃ b : Nat → Block, b 0 = s.block ∧ b count = t.block ∧ ∀ k, k < count →
      ∃ (m : Fin 6 → V) (v : Fin 6 → Rail → V),
        m 0 = 1 ∧ (∀ i j : Fin 6, j.val = i.val + 1 → m j = 1 - (v i .left + 1) * p.mx.get i * p.modindex) ∧
        (∀ i r, v i r = railSample Config.cfg p r ((b k).ph.get i) *
          (m i + (1 - (((b k).fb.get i).get r + 1) * p.feedback) + (b k).frames.read (frameCell k r))) ∧
        (∀ i, (b (k + 1)).ph.get i = if 1 ≤ (b k).ph.get i + p.inc.get i then (b k).ph.get i + p.inc.get i - 1
          else (b k).ph.get i + p.inc.get i) ∧
        (∀ i r, ((b (k + 1)).fb.get i).get r = ((b k).fb.get i).get r + 1 / 10 * (v i r - ((b k).fb.get i).get r)) ∧
        (∀ r, (b (k + 1)).frames.read (frameCell k r) =
          (∑ i : Fin 6, v i r * (1 - p.mx.get i)) / ((∑ i : Fin 6, (1 - p.mx.get i)) + 2) / 2) ∧
        (∀ a, (∀ r, a ≠ frameCell k r) → (b (k + 1)).frames.read a = (b k).frames.read a)

/-- R154, R158 to R162: the stages one sample goes through, by their formulas. -/
def Obligations.RailSampleIsTheFourStages : Prop :=
  ∀ (p : Params) (r : Rail) (ph : V),
    let pd := (⌊ph * p.decimate⌋ : V) / p.decimate
    let at' := match r with
      | .left => pd
      | .right => if 1 ≤ pd + 1 / 4 then pd + 1 / 4 - 1 else pd + 1 / 4
    let k := ⌊at' * (Config.cfg.sineSize : V)⌋
    let a := Config.cfg.sineRom (k % (Config.cfg.sineSize : Int)).toNat
    let b := Config.cfg.sineRom ((k + 1) % (Config.cfg.sineSize : Int)).toNat
    let s2 := a + (b - a) * (at' * (Config.cfg.sineSize : V) - (k : V))
    let s3 := ((if 0 ≤ s2 * p.bitcrush then ⌊s2 * p.bitcrush⌋ else ⌈s2 * p.bitcrush⌉ : Int) : V) / p.bitcrush
    railSample Config.cfg p r ph = Config.cfg.sat (s3 * p.drive) / Config.cfg.sat p.drive

/-- R158: the decimator. -/
def Obligations.DecimatorRoundsThePhaseDown : Prop :=
  (∀ level p : V, decimator level p = (⌊p * level⌋ : V) / level) ∧
  (∀ level p : V, 0 < level → 0 ≤ p → p < 1 → 0 ≤ decimator level p ∧ decimator level p ≤ p) ∧
  (∀ level p : V, 0 < level → (∃ z : Int, p * level = (z : V)) → decimator level p = p) ∧
  decimator 4 (3 / 10) = 1 / 4

/-- R161: the bit-depth quantizer. -/
def Obligations.BitDepthTruncatesTowardZero : Prop :=
  (∀ level s : V, bitDepth level s = ((if 0 ≤ s * level then ⌊s * level⌋ else ⌈s * level⌉ : Int) : V) / level) ∧
  (∀ level s : V, 0 < level → |bitDepth level s| ≤ |s|) ∧
  (∀ level s : V, 0 < level → bitDepth level s = 0 ∨ (0 < bitDepth level s ∧ 0 < s) ∨ (bitDepth level s < 0 ∧ s < 0)) ∧
  (∀ level s : V, 0 < level → ∃ z : Int, bitDepth level s = (z : V) / level ∧ |s * level - (z : V)| < 1) ∧
  bitDepth 4 (-3 / 10) = -1 / 4 ∧ bitDepth 4 (3 / 10) = 1 / 4 ∧ bitDepth 4 (1 / 5) = 0

/-- R157, R168: the one wrap step of each phase, and when the result is out of range. -/
def Obligations.PhaseWrapsByOneStepOrFaults : Prop :=
  (∀ (cp : Nat) (q : V), -1 ≤ q → q < 2 → ∃ z : Int, checkPhase cp (wrapOnce q) = .ok (q + (z : V)) ∧
    0 ≤ q + (z : V) ∧ q + (z : V) < 1) ∧
  (∀ (cp : Nat) (q : V), q < -1 ∨ 2 ≤ q → checkPhase cp (wrapOnce q) = .error (.phaseRange cp)) ∧
  (∀ (cp : Nat) (ph inc : V), 0 ≤ ph + inc → ph + inc < 2 →
    checkPhase cp (advancePhase ph inc) = .ok (if 1 ≤ ph + inc then ph + inc - 1 else ph + inc)) ∧
  (∀ (cp : Nat) (ph inc : V), ph + inc < 0 ∨ 2 ≤ ph + inc →
    checkPhase cp (advancePhase ph inc) = .error (.phaseRange cp))

/-- R173: with an all-zero matrix every FM frame is the equal mix over 8 of six voices that modulate nothing: frame `k` of any block, as
`blockResult` runs them, and the frame of a command of one. -/
def Obligations.AllZeroMatrixMixesTheVoicesEqually : Prop :=
  ∀ p : Params, (∀ i, p.mx.get i = 0) →
    (∀ (k : Nat) (b : Block) (r : Rail), (plainFrame Config.cfg .fm p k b).frames.read (frameCell k r) =
      (∑ i : Fin 6, railSample Config.cfg p r (wrapOnce (b.ph.get i + b.frames.read (frameCell k r) + Config.cfg.fbOffset +
        (b.fb.get i).get r * p.feedback + (if i = 0 then p.modindex else 0)))) / 8) ∧
    (∀ (s t : State) (r : Rail), p.Of s → exec (.procFm 1) s = .next t → t.frames.read (frameCell 0 r) =
      (∑ i : Fin 6, railSample Config.cfg p r (wrapOnce (s.ph.get i + s.frames.read (frameCell 0 r) + Config.cfg.fbOffset +
        (s.fb.get i).get r * p.feedback + (if i = 0 then p.modindex else 0)))) / 8)

/-- R37, R152, R175: a processing command leaves every register but the phases and feedback histories, and every cell of FB outside the
frames it processes. -/
def Obligations.ProcessingCommandsFrame : Prop :=
  ∀ (i : Instr) (count : Nat) (s t : State), frameCount i = some count → exec i s = .next t →
    t.inc = s.inc ∧ t.mx = s.mx ∧ t.freeze = s.freeze ∧ t.feedback = s.feedback ∧ t.modindex = s.modindex ∧
    t.bitcrush = s.bitcrush ∧ t.decimate = s.decimate ∧ t.drive = s.drive ∧ t.cs = s.cs ∧
    (∀ a, (∀ k r, k < count → a ≠ frameCell k r) → t.frames.read a = s.frames.read a) ∧
    (count = 0 → t.ph = s.ph ∧ t.fb = s.fb)

/-- R62, R152: an output frame depends on no input frame after it: two states that differ only in FB beyond frame `k` get the same cells up
to frame `k`. -/
def Obligations.OutputFramesDependOnNoLaterInput : Prop :=
  ∀ (i : Instr) (count k : Nat) (s t t' : State) (m : Memory), frameCount i = some count →
    (∀ a, a < 2 * (k + 1) → m.read a = s.frames.read a) →
    exec i s = .next t → exec i { s with frames := m } = .next t' →
    ∀ a, a < 2 * (k + 1) → t'.frames.read a = t.frames.read a

/-- R37, R191: a processing command does not read FREEZE. -/
def Obligations.ProcessingIgnoresFreeze : Prop :=
  ∀ (i : Instr) (count : Nat) (s t : State) (f : Reg Bool), frameCount i = some count → exec i s = .next t →
    exec i { s with freeze := f } = .next { t with freeze := f }

/-- R51, R52, R60: no table is read outside its space: two configurations that agree on every cell the four spaces have, and in
everything but their tables, give the same reads, and so the same outcome of every command that reads a table. -/
def Obligations.TableReadsStayInTheirSpace : Prop :=
  ∀ c c' : Config, c.Legal →
    c' = { c with sineRom := c'.sineRom, rcosRom := c'.rcosRom, chordRom := c'.chordRom, structRom := c'.structRom } →
    (∀ space a, a < romCells c space → romRead c' space a = romRead c space a) →
    (∀ q : V, wave c' q = wave c q) ∧
    (∀ f : V, 0 ≤ f → f < 1 → rcosWarp c' f = rcosWarp c f) ∧
    (∀ (cp row j : Nat) (chord : V), checkChord cp chord = .ok row → j < 6 → chordRow c' row j = chordRow c row j) ∧
    (∀ value : V, 0 ≤ value → value < 1 → structureMatrix c' value = structureMatrix c value) ∧
    (∀ (note spread fine chord : V) (s : State),
      freqChordWith c' note spread fine chord s = freqChordWith c note spread fine chord s) ∧
    (∀ (value : V) (s : State), setStructureWith c' value s = setStructureWith c value s) ∧
    (∀ (mode : Mode) (count : Nat) (s : State), procWith c' mode count s = procWith c mode count s)

/-- R28, R170, R175: with the coefficients in [0,1] the total gain is in [2,8], and under the checks of R153 no divisor is 0. -/
def Obligations.NoFrameDividesByZero : Prop :=
  (∀ p : Params, (∀ i, 0 ≤ p.mx.get i ∧ p.mx.get i ≤ 1) → 2 ≤ totalGain p ∧ totalGain p ≤ 8) ∧
  (∀ (i : Instr) (count : Nat) (s t : State), frameCount i = some count → 1 ≤ count → exec i s = .next t →
    s.decimate ≠ 0 ∧ s.bitcrush ≠ 0 ∧ Config.cfg.sat s.drive ≠ 0) ∧
  (∀ (i : Instr) (count : Nat) (s t : State) (p : Params), frameCount i = some count → 1 ≤ count → s.MatrixWhole → p.Of s →
    exec i s = .next t → totalGain p ≠ 0)

/-! Invariants. -/

/-- R174: the phase invariant, at reset and over every step. -/
def Obligations.PhaseStaysInUnitRange : Prop :=
  State.reset.PhaseInRange ∧ ∀ s t : State, s.PhaseInRange → step s = .next t → t.PhaseInRange

/-- R23, R26, R30, R36, R144, R174: every step keeps the whole invariant: phases in [0,1), the matrix whole and in [0,1], the frame
buffer canonical and inside its space, the cursor inside the stream. -/
def Obligations.EveryStepKeepsTheInvariant : Prop :=
  ∀ s t : State, s.Inv → step s = .next t → t.Inv

/-- R35, R36: the invariant holds after reset. -/
def Obligations.ResetMeetsTheInvariant : Prop := State.reset.Inv

/-- R65, R66, R245: no move of the host breaks the invariant, and what the host writes it reads back. -/
def Obligations.HostMovesKeepTheInvariant : Prop :=
  (∀ (s : State) (ws : List Word), s.Inv → (s.hostAppend ws).Inv) ∧
  (∀ (s t : State) (a : Nat) (v : V), s.Inv → s.hostWrite a v = some t →
    t.Inv ∧ t.hostRead a = some v ∧ ∀ b, b ≠ a → t.hostRead b = s.hostRead b) ∧
  (∀ cs : List Word, (launch cs).Inv)

/-- R251, R252: a run over the words in CS ends: finished with the cursor at the end of the stream, or with a fault. -/
def Obligations.EveryRunEnds : Prop :=
  ∀ s : State, s.CursorInStream →
    (∃ t, runStream s = .finished t ∧ t.cp = t.cs.length ∧ t.cs = s.cs) ∨ ∃ f, runStream s = .faulted f

/-- R81: an instruction placed at the cursor is what the next step runs (`withFetchWord` is the model's own; log entry 4). -/
def Obligations.PlacedWordsAreFetchedNext : Prop :=
  ∀ (s : State) (nbits w : Nat) (i : Instr), decodeTableWord nbits w = some i →
    step (s.withFetchWord nbits w) = exec i (s.withFetchWord nbits w)
end

