-- ==== Sys2Proof/Laws/Arith.lean ====
section
/-! SUPPORT. The integer-valued functions and powers of R13 in the library's terms. -/

namespace Sys2Proof

theorem pow2_eq_zpow (k : Int) : pow2 k = (2 : V) ^ k := by
  cases k with
  | ofNat n => simp [pow2]
  | negSucc n => simp [pow2, zpow_negSucc]

theorem pow2_pos (k : Int) : 0 < pow2 k := by
  rw [pow2_eq_zpow]
  positivity

end Sys2Proof

namespace Sys2Proof.Machine

theorem floorV_eq_floor (x : V) : floorV x = ⌊x⌋ := rfl

theorem floorV_le (x : V) : (floorV x : V) ≤ x := Int.floor_le x

theorem lt_floorV_add_one (x : V) : x < (floorV x : V) + 1 := Int.lt_floor_add_one x

/-- `trunc` is `floor` at and above 0 and the ceiling below. -/
theorem truncV_eq (x : V) : truncV x = if 0 ≤ x then ⌊x⌋ else ⌈x⌉ := by
  unfold truncV
  split_ifs
  · rfl
  · rw [floorV_eq_floor, Int.floor_neg, neg_neg]

theorem powV_eq_pow (x : V) (i : Nat) : powV x i = x ^ i := by
  induction i with
  | zero => rw [powV, pow_zero]
  | succ i ih => rw [powV, ih, pow_succ]

end Sys2Proof.Machine
end

