-- ==== Sys2Proof/Laws/Config.lean ====
section
/-! SUPPORT. The machine's configuration is legal, and every legal configuration is one it may have (R234). -/

namespace Sys2Proof.Laws.Config

open Sys2Proof.Config

theorem toUnit_range (x : V) : 0 ≤ toUnit x ∧ toUnit x ≤ 1 := by
  unfold toUnit
  split_ifs with h1 h2
  · exact ⟨le_refl _, zero_le_one⟩
  · exact ⟨zero_le_one, le_refl _⟩
  · exact ⟨not_lt.mp h1, not_lt.mp h2⟩

theorem toUnit_of_range {x : V} (h : 0 ≤ x ∧ x ≤ 1) : toUnit x = x := by
  unfold toUnit
  rw [if_neg (not_lt.mpr h.1), if_neg (not_lt.mpr h.2)]

theorem toPositive_pos (x : V) : 0 < toPositive x := by
  unfold toPositive
  split_ifs with h
  · exact h
  · exact zero_lt_one

theorem toPositive_of_pos {x : V} (h : 0 < x) : toPositive x = x := if_pos h

theorem rowMax_succ (rom : Nat → V) (base j : Nat) : rowMax rom base j ≤ rowMax rom base (j + 1) := by
  rw [rowMax]
  split_ifs with h
  · exact h
  · exact le_refl _

theorem rowMax_of_ascending (rom : Nat → V) (base : Nat) :
    ∀ j, (∀ k, k < j → rom (base + k) ≤ rom (base + k + 1)) → rowMax rom base j = rom (base + j)
  | 0, _ => rfl
  | j + 1, h => by
    rw [rowMax, rowMax_of_ascending rom base j fun k hk => h k (by omega), if_pos (h j (by omega))]
    rfl

/-- Whatever the raw choice, the configuration made of it is legal. -/
theorem legalise_legal (c : Config) : c.legalise.Legal where
  sineSize_pos := Nat.le_max_left ..
  rcosSize_pos := Nat.le_max_left ..
  rcos_first := rfl
  rcos_last := by
    show (if max 1 c.rcosSize = 0 then (0 : V) else if max 1 c.rcosSize = max 1 c.rcosSize then 1 else
      if max 1 c.rcosSize < max 1 c.rcosSize then _ else _) = 1
    rw [if_neg (by omega), if_pos rfl]
  rcos_unit k hk := by
    show 0 ≤ (if k = 0 then (0 : V) else if k = max 1 c.rcosSize then 1 else
      if k < max 1 c.rcosSize then toUnit (c.rcosRom k) else c.rcosRom k) ∧
      (if k = 0 then (0 : V) else if k = max 1 c.rcosSize then 1 else
      if k < max 1 c.rcosSize then toUnit (c.rcosRom k) else c.rcosRom k) ≤ 1
    have hk' : k ≤ max 1 c.rcosSize := hk
    split_ifs with h1 h2 h3
    · exact ⟨le_refl _, zero_le_one⟩
    · exact ⟨zero_le_one, le_refl _⟩
    · exact toUnit_range _
    · omega
  chord_ascending r j hr hj := by
    show (if 6 * r + j < 66 then rowMax c.chordRom (6 * ((6 * r + j) / 6)) ((6 * r + j) % 6) else _) ≤
      (if 6 * r + j + 1 < 66 then rowMax c.chordRom (6 * ((6 * r + j + 1) / 6)) ((6 * r + j + 1) % 6) else _)
    have e1 : (6 * r + j) / 6 = r := by omega
    have e2 : (6 * r + j) % 6 = j := by omega
    have e3 : (6 * r + j + 1) / 6 = r := by omega
    have e4 : (6 * r + j + 1) % 6 = j + 1 := by omega
    rw [if_pos (by omega), if_pos (by omega), e1, e2, e3, e4]
    exact rowMax_succ ..
  struct_first i hi := by
    show (if 8 * i < 48 then (if 8 * i % 8 = 0 then (0 : V) else _) else _) = 0
    rw [if_pos (by omega), if_pos (by omega)]
  struct_unit a ha := by
    show 0 ≤ (if a < 48 then (if a % 8 = 0 then (0 : V) else toUnit (c.structRom a)) else c.structRom a) ∧
      (if a < 48 then (if a % 8 = 0 then (0 : V) else toUnit (c.structRom a)) else c.structRom a) ≤ 1
    rw [if_pos ha]
    split_ifs with h
    · exact ⟨le_refl _, zero_le_one⟩
    · exact toUnit_range _
  refFreq_pos := toPositive_pos _
  fratio_pos _ := toPositive_pos _
  sqrt_nonneg y hy := by
    show 0 ≤ (if 0 ≤ y ∧ c.sqrt y < 0 then 0 else c.sqrt y)
    split_ifs with h
    · exact le_refl _
    · exact not_lt.mp fun hlt => h ⟨hy, hlt⟩
  sat_zero x := by
    show (if x = 0 then (0 : V) else if c.sat x = 0 then 1 else c.sat x) = 0 ↔ x = 0
    split_ifs with h1 h2
    · simp [h1]
    · simp [h1]
    · simp [h1, h2]
  decimateReset_pos := toPositive_pos _
  bitcrushReset_pos := toPositive_pos _
  driveReset_pos := toPositive_pos _
  fbFrames_pos := Nat.le_max_left ..
  fbFrames_lt := by
    show max 1 (min (2 ^ 24 - 1) c.fbFrames) < 2 ^ 24
    omega

/-- A legal configuration is left as it is: none is ruled out. -/
theorem legalise_of_legal (c : Config) (h : c.Legal) : c.legalise = c := by
  have hs := h.sineSize_pos
  have hr := h.rcosSize_pos
  have hf := h.fbFrames_pos
  have hl := h.fbFrames_lt
  have rc : c.legalise.rcosRom = c.rcosRom := by
    funext k
    show (if k = 0 then (0 : V) else if k = max 1 c.rcosSize then 1 else
      if k < max 1 c.rcosSize then toUnit (c.rcosRom k) else c.rcosRom k) = c.rcosRom k
    have hm : max 1 c.rcosSize = c.rcosSize := by omega
    rw [hm]
    split_ifs with h1 h2 h3
    · rw [h1, h.rcos_first]
    · rw [h2, h.rcos_last]
    · exact toUnit_of_range (h.rcos_unit k (by omega))
    · rfl
  have ch : c.legalise.chordRom = c.chordRom := by
    funext a
    show (if a < 66 then rowMax c.chordRom (6 * (a / 6)) (a % 6) else c.chordRom a) = c.chordRom a
    split_ifs with ha
    · rw [rowMax_of_ascending _ _ _ fun k hk => h.chord_ascending (a / 6) k (by omega) (by omega)]
      congr 1
      omega
    · rfl
  have st : c.legalise.structRom = c.structRom := by
    funext a
    show (if a < 48 then (if a % 8 = 0 then (0 : V) else toUnit (c.structRom a)) else c.structRom a) = c.structRom a
    split_ifs with h1 h2
    · have e : 8 * (a / 8) = a := by omega
      rw [← e, h.struct_first (a / 8) (by omega)]
    · exact toUnit_of_range (h.struct_unit a h1)
    · rfl
  have sq : c.legalise.sqrt = c.sqrt := by
    funext y
    show (if 0 ≤ y ∧ c.sqrt y < 0 then 0 else c.sqrt y) = c.sqrt y
    split_ifs with hy
    · exact absurd (h.sqrt_nonneg y hy.1) (not_le.mpr hy.2)
    · rfl
  have sa : c.legalise.sat = c.sat := by
    funext x
    show (if x = 0 then (0 : V) else if c.sat x = 0 then 1 else c.sat x) = c.sat x
    split_ifs with h1 h2
    · exact ((h.sat_zero x).mpr h1).symm
    · exact absurd ((h.sat_zero x).mp h2) h1
    · rfl
  have fr : c.legalise.fratio = c.fratio := funext fun x => toPositive_of_pos (h.fratio_pos x)
  have z1 : c.legalise.sineSize = c.sineSize := by show max 1 c.sineSize = _; omega
  have z2 : c.legalise.rcosSize = c.rcosSize := by show max 1 c.rcosSize = _; omega
  have z3 : c.legalise.fbFrames = c.fbFrames := by show max 1 (min (2 ^ 24 - 1) c.fbFrames) = _; omega
  have p1 : c.legalise.refFreq = c.refFreq := toPositive_of_pos h.refFreq_pos
  have p2 : c.legalise.decimateReset = c.decimateReset := toPositive_of_pos h.decimateReset_pos
  have p3 : c.legalise.bitcrushReset = c.bitcrushReset := toPositive_of_pos h.bitcrushReset_pos
  have p4 : c.legalise.driveReset = c.driveReset := toPositive_of_pos h.driveReset_pos
  rcases hc : c.legalise with ⟨⟩
  rcases c with ⟨⟩
  simp_all [legalise]

/-- The machine's own configuration is legal (R234). -/
theorem cfg_legal : cfg.Legal := legalise_legal raw

end Sys2Proof.Laws.Config
end

