-- ==== Sys2Proof/Laws/Decode.lean ====
section
/-! SUPPORT. The header fields and the opcode map: a header is its two fields, and it selects a row exactly as its fields say. -/

namespace Sys2Proof

theorem getLsbD_headerWord (op : BitVec 8) (imm i : Nat) :
    (headerWord op imm).getLsbD i = if i < 24 then (BitVec.ofNat 24 imm).getLsbD i else op.getLsbD (i - 24) := by
  show BitVec.getLsbD (w := 8 + 24) (op ++ BitVec.ofNat 24 imm) i = _
  rw [BitVec.getLsbD_append]

@[simp] theorem opField_headerWord (op : BitVec 8) (imm : Nat) : opField (headerWord op imm) = op := by
  unfold opField
  apply BitVec.eq_of_getLsbD_eq
  intro i hi
  rw [BitVec.getLsbD_extractLsb', getLsbD_headerWord, if_neg (by omega)]
  simp [hi]

@[simp] theorem immField_headerWord (op : BitVec 8) (imm : Nat) : immField (headerWord op imm) = imm % 2 ^ 24 := by
  have h : (headerWord op imm).extractLsb' 0 24 = BitVec.ofNat 24 imm := by
    apply BitVec.eq_of_getLsbD_eq
    intro i hi
    rw [BitVec.getLsbD_extractLsb', getLsbD_headerWord, if_pos (by omega)]
    simp [hi]
  unfold immField
  rw [h, BitVec.toNat_ofNat]

/-- A header is its opcode over its immediate (R71). -/
theorem headerWord_fields (h : Word) : headerWord (opField h) (immField h) = h := by
  apply BitVec.eq_of_getLsbD_eq
  intro i hi
  rw [getLsbD_headerWord]
  unfold opField immField
  rw [BitVec.ofNat_toNat, BitVec.setWidth_eq]
  split_ifs with h24
  · simp [h24]
  · have e : 24 + (i - 24) = i := by omega
    have e8 : i - 24 < 8 := by omega
    rw [BitVec.getLsbD_extractLsb', e]
    simp [e8]

/-- No two rows of the opcode map select the same header. -/
theorem matchWords_apart : Opcode.all.Pairwise (fun a b => a.code ≠ b.code) := by decide

theorem mem_all (o : Opcode) : o ∈ Opcode.all := by cases o <;> decide

/-- The bits of a mask that fixes the opcode field fix the opcode. -/
theorem opField_of_selects {o : Opcode} {h : Word} (hs : o.selects h = true) : opField h = o.code := by
  have he : h &&& o.mask = o.matchWord := by simpa [Opcode.selects] using hs
  have hm : opField o.mask = 0xFF#8 := by cases o <;> decide
  have h2 : opField (h &&& o.mask) = opField h &&& opField o.mask := by
    unfold opField
    apply BitVec.eq_of_getLsbD_eq
    intro i hi
    simp [hi]
  have h3 : opField h &&& 0xFF#8 = opField h := by
    rw [show (0xFF#8 : BitVec 8) = BitVec.allOnes 8 by decide, BitVec.and_allOnes]
  rw [← h3, ← hm, ← h2, he, Opcode.matchWord, opField_headerWord]

/-- A row that selects a header is the row the map gives it. -/
theorem selectOpcode_of_selects {o : Opcode} {h : Word} (hs : o.selects h = true) : selectOpcode h = some o := by
  unfold selectOpcode
  rw [List.find?_eq_some_iff_append]
  refine ⟨hs, ?_⟩
  have hn : ∀ a ∈ Opcode.all, a.selects h = true → a = o := by
    intro a _ ha
    have h1 := opField_of_selects ha
    rw [opField_of_selects hs] at h1
    revert h1
    cases a <;> cases o <;> decide
  obtain ⟨as, bs, heq⟩ := List.append_of_mem (mem_all o)
  have hnd : Opcode.all.Nodup := by decide
  refine ⟨as, bs, heq, fun a ha => ?_⟩
  by_contra hsel
  have hao : a = o := hn a (by rw [heq]; simp [ha]) (by simpa using hsel)
  rw [heq, List.nodup_append] at hnd
  exact hnd.2.2 a ha o (by simp) hao

/-- The row a header is given does select it. -/
theorem selects_of_selectOpcode {o : Opcode} {h : Word} (hs : selectOpcode h = some o) : o.selects h = true :=
  List.find?_some (p := fun (o : Opcode) => o.selects h) hs

end Sys2Proof
end

