-- ==== Sys2Proof/Laws/State.lean ====
section
/-! SUPPORT. One lemma per field per update of the state, so that no proof unfolds a record update. -/

namespace Sys2Proof.Machine

@[simp] theorem State.setFreeze_ph (s : State) (b : Bool) : (s.setFreeze b).ph = s.ph := rfl
@[simp] theorem State.setFreeze_inc (s : State) (b : Bool) : (s.setFreeze b).inc = s.inc := rfl
@[simp] theorem State.setFreeze_fb (s : State) (b : Bool) : (s.setFreeze b).fb = s.fb := rfl
@[simp] theorem State.setFreeze_mx (s : State) (b : Bool) : (s.setFreeze b).mx = s.mx := rfl
@[simp] theorem State.setFreeze_freeze (s : State) (b : Bool) : (s.setFreeze b).freeze = .val b := rfl
@[simp] theorem State.setFreeze_feedback (s : State) (b : Bool) : (s.setFreeze b).feedback = s.feedback := rfl
@[simp] theorem State.setFreeze_modindex (s : State) (b : Bool) : (s.setFreeze b).modindex = s.modindex := rfl
@[simp] theorem State.setFreeze_bitcrush (s : State) (b : Bool) : (s.setFreeze b).bitcrush = s.bitcrush := rfl
@[simp] theorem State.setFreeze_decimate (s : State) (b : Bool) : (s.setFreeze b).decimate = s.decimate := rfl
@[simp] theorem State.setFreeze_drive (s : State) (b : Bool) : (s.setFreeze b).drive = s.drive := rfl
@[simp] theorem State.setFreeze_frames (s : State) (b : Bool) : (s.setFreeze b).frames = s.frames := rfl
@[simp] theorem State.setFreeze_cp (s : State) (b : Bool) : (s.setFreeze b).cp = s.cp := rfl
@[simp] theorem State.setFreeze_cs (s : State) (b : Bool) : (s.setFreeze b).cs = s.cs := rfl

@[simp] theorem State.setFeedback_ph (s : State) (v : V) : (s.setFeedback v).ph = s.ph := rfl
@[simp] theorem State.setFeedback_inc (s : State) (v : V) : (s.setFeedback v).inc = s.inc := rfl
@[simp] theorem State.setFeedback_fb (s : State) (v : V) : (s.setFeedback v).fb = s.fb := rfl
@[simp] theorem State.setFeedback_mx (s : State) (v : V) : (s.setFeedback v).mx = s.mx := rfl
@[simp] theorem State.setFeedback_freeze (s : State) (v : V) : (s.setFeedback v).freeze = s.freeze := rfl
@[simp] theorem State.setFeedback_feedback (s : State) (v : V) : (s.setFeedback v).feedback = .val v := rfl
@[simp] theorem State.setFeedback_modindex (s : State) (v : V) : (s.setFeedback v).modindex = s.modindex := rfl
@[simp] theorem State.setFeedback_bitcrush (s : State) (v : V) : (s.setFeedback v).bitcrush = s.bitcrush := rfl
@[simp] theorem State.setFeedback_decimate (s : State) (v : V) : (s.setFeedback v).decimate = s.decimate := rfl
@[simp] theorem State.setFeedback_drive (s : State) (v : V) : (s.setFeedback v).drive = s.drive := rfl
@[simp] theorem State.setFeedback_frames (s : State) (v : V) : (s.setFeedback v).frames = s.frames := rfl
@[simp] theorem State.setFeedback_cp (s : State) (v : V) : (s.setFeedback v).cp = s.cp := rfl
@[simp] theorem State.setFeedback_cs (s : State) (v : V) : (s.setFeedback v).cs = s.cs := rfl

@[simp] theorem State.setModindex_ph (s : State) (v : V) : (s.setModindex v).ph = s.ph := rfl
@[simp] theorem State.setModindex_inc (s : State) (v : V) : (s.setModindex v).inc = s.inc := rfl
@[simp] theorem State.setModindex_fb (s : State) (v : V) : (s.setModindex v).fb = s.fb := rfl
@[simp] theorem State.setModindex_mx (s : State) (v : V) : (s.setModindex v).mx = s.mx := rfl
@[simp] theorem State.setModindex_freeze (s : State) (v : V) : (s.setModindex v).freeze = s.freeze := rfl
@[simp] theorem State.setModindex_feedback (s : State) (v : V) : (s.setModindex v).feedback = s.feedback := rfl
@[simp] theorem State.setModindex_modindex (s : State) (v : V) : (s.setModindex v).modindex = .val v := rfl
@[simp] theorem State.setModindex_bitcrush (s : State) (v : V) : (s.setModindex v).bitcrush = s.bitcrush := rfl
@[simp] theorem State.setModindex_decimate (s : State) (v : V) : (s.setModindex v).decimate = s.decimate := rfl
@[simp] theorem State.setModindex_drive (s : State) (v : V) : (s.setModindex v).drive = s.drive := rfl
@[simp] theorem State.setModindex_frames (s : State) (v : V) : (s.setModindex v).frames = s.frames := rfl
@[simp] theorem State.setModindex_cp (s : State) (v : V) : (s.setModindex v).cp = s.cp := rfl
@[simp] theorem State.setModindex_cs (s : State) (v : V) : (s.setModindex v).cs = s.cs := rfl

@[simp] theorem State.setBitcrush_ph (s : State) (v : V) : (s.setBitcrush v).ph = s.ph := rfl
@[simp] theorem State.setBitcrush_inc (s : State) (v : V) : (s.setBitcrush v).inc = s.inc := rfl
@[simp] theorem State.setBitcrush_fb (s : State) (v : V) : (s.setBitcrush v).fb = s.fb := rfl
@[simp] theorem State.setBitcrush_mx (s : State) (v : V) : (s.setBitcrush v).mx = s.mx := rfl
@[simp] theorem State.setBitcrush_freeze (s : State) (v : V) : (s.setBitcrush v).freeze = s.freeze := rfl
@[simp] theorem State.setBitcrush_feedback (s : State) (v : V) : (s.setBitcrush v).feedback = s.feedback := rfl
@[simp] theorem State.setBitcrush_modindex (s : State) (v : V) : (s.setBitcrush v).modindex = s.modindex := rfl
@[simp] theorem State.setBitcrush_bitcrush (s : State) (v : V) : (s.setBitcrush v).bitcrush = v := rfl
@[simp] theorem State.setBitcrush_decimate (s : State) (v : V) : (s.setBitcrush v).decimate = s.decimate := rfl
@[simp] theorem State.setBitcrush_drive (s : State) (v : V) : (s.setBitcrush v).drive = s.drive := rfl
@[simp] theorem State.setBitcrush_frames (s : State) (v : V) : (s.setBitcrush v).frames = s.frames := rfl
@[simp] theorem State.setBitcrush_cp (s : State) (v : V) : (s.setBitcrush v).cp = s.cp := rfl
@[simp] theorem State.setBitcrush_cs (s : State) (v : V) : (s.setBitcrush v).cs = s.cs := rfl

@[simp] theorem State.setDecimate_ph (s : State) (v : V) : (s.setDecimate v).ph = s.ph := rfl
@[simp] theorem State.setDecimate_inc (s : State) (v : V) : (s.setDecimate v).inc = s.inc := rfl
@[simp] theorem State.setDecimate_fb (s : State) (v : V) : (s.setDecimate v).fb = s.fb := rfl
@[simp] theorem State.setDecimate_mx (s : State) (v : V) : (s.setDecimate v).mx = s.mx := rfl
@[simp] theorem State.setDecimate_freeze (s : State) (v : V) : (s.setDecimate v).freeze = s.freeze := rfl
@[simp] theorem State.setDecimate_feedback (s : State) (v : V) : (s.setDecimate v).feedback = s.feedback := rfl
@[simp] theorem State.setDecimate_modindex (s : State) (v : V) : (s.setDecimate v).modindex = s.modindex := rfl
@[simp] theorem State.setDecimate_bitcrush (s : State) (v : V) : (s.setDecimate v).bitcrush = s.bitcrush := rfl
@[simp] theorem State.setDecimate_decimate (s : State) (v : V) : (s.setDecimate v).decimate = v := rfl
@[simp] theorem State.setDecimate_drive (s : State) (v : V) : (s.setDecimate v).drive = s.drive := rfl
@[simp] theorem State.setDecimate_frames (s : State) (v : V) : (s.setDecimate v).frames = s.frames := rfl
@[simp] theorem State.setDecimate_cp (s : State) (v : V) : (s.setDecimate v).cp = s.cp := rfl
@[simp] theorem State.setDecimate_cs (s : State) (v : V) : (s.setDecimate v).cs = s.cs := rfl

@[simp] theorem State.setDrive_ph (s : State) (v : V) : (s.setDrive v).ph = s.ph := rfl
@[simp] theorem State.setDrive_inc (s : State) (v : V) : (s.setDrive v).inc = s.inc := rfl
@[simp] theorem State.setDrive_fb (s : State) (v : V) : (s.setDrive v).fb = s.fb := rfl
@[simp] theorem State.setDrive_mx (s : State) (v : V) : (s.setDrive v).mx = s.mx := rfl
@[simp] theorem State.setDrive_freeze (s : State) (v : V) : (s.setDrive v).freeze = s.freeze := rfl
@[simp] theorem State.setDrive_feedback (s : State) (v : V) : (s.setDrive v).feedback = s.feedback := rfl
@[simp] theorem State.setDrive_modindex (s : State) (v : V) : (s.setDrive v).modindex = s.modindex := rfl
@[simp] theorem State.setDrive_bitcrush (s : State) (v : V) : (s.setDrive v).bitcrush = s.bitcrush := rfl
@[simp] theorem State.setDrive_decimate (s : State) (v : V) : (s.setDrive v).decimate = s.decimate := rfl
@[simp] theorem State.setDrive_drive (s : State) (v : V) : (s.setDrive v).drive = v := rfl
@[simp] theorem State.setDrive_frames (s : State) (v : V) : (s.setDrive v).frames = s.frames := rfl
@[simp] theorem State.setDrive_cp (s : State) (v : V) : (s.setDrive v).cp = s.cp := rfl
@[simp] theorem State.setDrive_cs (s : State) (v : V) : (s.setDrive v).cs = s.cs := rfl

@[simp] theorem State.setInc_ph (s : State) (x : Six (Reg V)) : (s.setInc x).ph = s.ph := rfl
@[simp] theorem State.setInc_inc (s : State) (x : Six (Reg V)) : (s.setInc x).inc = x := rfl
@[simp] theorem State.setInc_fb (s : State) (x : Six (Reg V)) : (s.setInc x).fb = s.fb := rfl
@[simp] theorem State.setInc_mx (s : State) (x : Six (Reg V)) : (s.setInc x).mx = s.mx := rfl
@[simp] theorem State.setInc_freeze (s : State) (x : Six (Reg V)) : (s.setInc x).freeze = s.freeze := rfl
@[simp] theorem State.setInc_feedback (s : State) (x : Six (Reg V)) : (s.setInc x).feedback = s.feedback := rfl
@[simp] theorem State.setInc_modindex (s : State) (x : Six (Reg V)) : (s.setInc x).modindex = s.modindex := rfl
@[simp] theorem State.setInc_bitcrush (s : State) (x : Six (Reg V)) : (s.setInc x).bitcrush = s.bitcrush := rfl
@[simp] theorem State.setInc_decimate (s : State) (x : Six (Reg V)) : (s.setInc x).decimate = s.decimate := rfl
@[simp] theorem State.setInc_drive (s : State) (x : Six (Reg V)) : (s.setInc x).drive = s.drive := rfl
@[simp] theorem State.setInc_frames (s : State) (x : Six (Reg V)) : (s.setInc x).frames = s.frames := rfl
@[simp] theorem State.setInc_cp (s : State) (x : Six (Reg V)) : (s.setInc x).cp = s.cp := rfl
@[simp] theorem State.setInc_cs (s : State) (x : Six (Reg V)) : (s.setInc x).cs = s.cs := rfl

@[simp] theorem State.setMx_ph (s : State) (x : Six V) : (s.setMx x).ph = s.ph := rfl
@[simp] theorem State.setMx_inc (s : State) (x : Six V) : (s.setMx x).inc = s.inc := rfl
@[simp] theorem State.setMx_fb (s : State) (x : Six V) : (s.setMx x).fb = s.fb := rfl
@[simp] theorem State.setMx_mx (s : State) (x : Six V) : (s.setMx x).mx = ⟨.val x.v0, .val x.v1, .val x.v2, .val x.v3, .val x.v4, .val x.v5⟩ := rfl
@[simp] theorem State.setMx_freeze (s : State) (x : Six V) : (s.setMx x).freeze = s.freeze := rfl
@[simp] theorem State.setMx_feedback (s : State) (x : Six V) : (s.setMx x).feedback = s.feedback := rfl
@[simp] theorem State.setMx_modindex (s : State) (x : Six V) : (s.setMx x).modindex = s.modindex := rfl
@[simp] theorem State.setMx_bitcrush (s : State) (x : Six V) : (s.setMx x).bitcrush = s.bitcrush := rfl
@[simp] theorem State.setMx_decimate (s : State) (x : Six V) : (s.setMx x).decimate = s.decimate := rfl
@[simp] theorem State.setMx_drive (s : State) (x : Six V) : (s.setMx x).drive = s.drive := rfl
@[simp] theorem State.setMx_frames (s : State) (x : Six V) : (s.setMx x).frames = s.frames := rfl
@[simp] theorem State.setMx_cp (s : State) (x : Six V) : (s.setMx x).cp = s.cp := rfl
@[simp] theorem State.setMx_cs (s : State) (x : Six V) : (s.setMx x).cs = s.cs := rfl

@[simp] theorem State.setBlock_ph (s : State) (p : Six V) (f : Six Rails) (m : Memory) : (s.setBlock p f m).ph = p := rfl
@[simp] theorem State.setBlock_inc (s : State) (p : Six V) (f : Six Rails) (m : Memory) : (s.setBlock p f m).inc = s.inc := rfl
@[simp] theorem State.setBlock_fb (s : State) (p : Six V) (f : Six Rails) (m : Memory) : (s.setBlock p f m).fb = f := rfl
@[simp] theorem State.setBlock_mx (s : State) (p : Six V) (f : Six Rails) (m : Memory) : (s.setBlock p f m).mx = s.mx := rfl
@[simp] theorem State.setBlock_freeze (s : State) (p : Six V) (f : Six Rails) (m : Memory) : (s.setBlock p f m).freeze = s.freeze := rfl
@[simp] theorem State.setBlock_feedback (s : State) (p : Six V) (f : Six Rails) (m : Memory) : (s.setBlock p f m).feedback = s.feedback := rfl
@[simp] theorem State.setBlock_modindex (s : State) (p : Six V) (f : Six Rails) (m : Memory) : (s.setBlock p f m).modindex = s.modindex := rfl
@[simp] theorem State.setBlock_bitcrush (s : State) (p : Six V) (f : Six Rails) (m : Memory) : (s.setBlock p f m).bitcrush = s.bitcrush := rfl
@[simp] theorem State.setBlock_decimate (s : State) (p : Six V) (f : Six Rails) (m : Memory) : (s.setBlock p f m).decimate = s.decimate := rfl
@[simp] theorem State.setBlock_drive (s : State) (p : Six V) (f : Six Rails) (m : Memory) : (s.setBlock p f m).drive = s.drive := rfl
@[simp] theorem State.setBlock_frames (s : State) (p : Six V) (f : Six Rails) (m : Memory) : (s.setBlock p f m).frames = m := rfl
@[simp] theorem State.setBlock_cp (s : State) (p : Six V) (f : Six Rails) (m : Memory) : (s.setBlock p f m).cp = s.cp := rfl
@[simp] theorem State.setBlock_cs (s : State) (p : Six V) (f : Six Rails) (m : Memory) : (s.setBlock p f m).cs = s.cs := rfl

@[simp] theorem State.advance_ph (s : State) (n : Nat) : (s.advance n).ph = s.ph := rfl
@[simp] theorem State.advance_inc (s : State) (n : Nat) : (s.advance n).inc = s.inc := rfl
@[simp] theorem State.advance_fb (s : State) (n : Nat) : (s.advance n).fb = s.fb := rfl
@[simp] theorem State.advance_mx (s : State) (n : Nat) : (s.advance n).mx = s.mx := rfl
@[simp] theorem State.advance_freeze (s : State) (n : Nat) : (s.advance n).freeze = s.freeze := rfl
@[simp] theorem State.advance_feedback (s : State) (n : Nat) : (s.advance n).feedback = s.feedback := rfl
@[simp] theorem State.advance_modindex (s : State) (n : Nat) : (s.advance n).modindex = s.modindex := rfl
@[simp] theorem State.advance_bitcrush (s : State) (n : Nat) : (s.advance n).bitcrush = s.bitcrush := rfl
@[simp] theorem State.advance_decimate (s : State) (n : Nat) : (s.advance n).decimate = s.decimate := rfl
@[simp] theorem State.advance_drive (s : State) (n : Nat) : (s.advance n).drive = s.drive := rfl
@[simp] theorem State.advance_frames (s : State) (n : Nat) : (s.advance n).frames = s.frames := rfl
@[simp] theorem State.advance_cp (s : State) (n : Nat) : (s.advance n).cp = s.cp + n := rfl
@[simp] theorem State.advance_cs (s : State) (n : Nat) : (s.advance n).cs = s.cs := rfl

@[simp] theorem State.hostAppend_ph (s : State) (ws : List Word) : (s.hostAppend ws).ph = s.ph := rfl
@[simp] theorem State.hostAppend_inc (s : State) (ws : List Word) : (s.hostAppend ws).inc = s.inc := rfl
@[simp] theorem State.hostAppend_fb (s : State) (ws : List Word) : (s.hostAppend ws).fb = s.fb := rfl
@[simp] theorem State.hostAppend_mx (s : State) (ws : List Word) : (s.hostAppend ws).mx = s.mx := rfl
@[simp] theorem State.hostAppend_freeze (s : State) (ws : List Word) : (s.hostAppend ws).freeze = s.freeze := rfl
@[simp] theorem State.hostAppend_feedback (s : State) (ws : List Word) : (s.hostAppend ws).feedback = s.feedback := rfl
@[simp] theorem State.hostAppend_modindex (s : State) (ws : List Word) : (s.hostAppend ws).modindex = s.modindex := rfl
@[simp] theorem State.hostAppend_bitcrush (s : State) (ws : List Word) : (s.hostAppend ws).bitcrush = s.bitcrush := rfl
@[simp] theorem State.hostAppend_decimate (s : State) (ws : List Word) : (s.hostAppend ws).decimate = s.decimate := rfl
@[simp] theorem State.hostAppend_drive (s : State) (ws : List Word) : (s.hostAppend ws).drive = s.drive := rfl
@[simp] theorem State.hostAppend_frames (s : State) (ws : List Word) : (s.hostAppend ws).frames = s.frames := rfl
@[simp] theorem State.hostAppend_cp (s : State) (ws : List Word) : (s.hostAppend ws).cp = s.cp := rfl
@[simp] theorem State.hostAppend_cs (s : State) (ws : List Word) : (s.hostAppend ws).cs = s.cs ++ ws := rfl

@[simp] theorem State.resetRegisters_ph (c : Config) (s : State) : (s.resetRegisters c).ph = .replicate 0 := rfl
@[simp] theorem State.resetRegisters_inc (c : Config) (s : State) : (s.resetRegisters c).inc = .replicate .undef := rfl
@[simp] theorem State.resetRegisters_fb (c : Config) (s : State) : (s.resetRegisters c).fb = .replicate ⟨0, 0⟩ := rfl
@[simp] theorem State.resetRegisters_mx (c : Config) (s : State) : (s.resetRegisters c).mx = .replicate .undef := rfl
@[simp] theorem State.resetRegisters_freeze (c : Config) (s : State) : (s.resetRegisters c).freeze = .undef := rfl
@[simp] theorem State.resetRegisters_feedback (c : Config) (s : State) : (s.resetRegisters c).feedback = .undef := rfl
@[simp] theorem State.resetRegisters_modindex (c : Config) (s : State) : (s.resetRegisters c).modindex = .undef := rfl
@[simp] theorem State.resetRegisters_bitcrush (c : Config) (s : State) : (s.resetRegisters c).bitcrush = c.bitcrushReset := rfl
@[simp] theorem State.resetRegisters_decimate (c : Config) (s : State) : (s.resetRegisters c).decimate = c.decimateReset := rfl
@[simp] theorem State.resetRegisters_drive (c : Config) (s : State) : (s.resetRegisters c).drive = c.driveReset := rfl
@[simp] theorem State.resetRegisters_frames (c : Config) (s : State) : (s.resetRegisters c).frames = s.frames := rfl
@[simp] theorem State.resetRegisters_cp (c : Config) (s : State) : (s.resetRegisters c).cp = s.cp := rfl
@[simp] theorem State.resetRegisters_cs (c : Config) (s : State) : (s.resetRegisters c).cs = s.cs := rfl

@[simp] theorem State.powerOn_ph (c : Config) : (State.powerOn c).ph = .replicate 0 := rfl
@[simp] theorem State.powerOn_inc (c : Config) : (State.powerOn c).inc = .replicate .undef := rfl
@[simp] theorem State.powerOn_fb (c : Config) : (State.powerOn c).fb = .replicate ⟨0, 0⟩ := rfl
@[simp] theorem State.powerOn_mx (c : Config) : (State.powerOn c).mx = .replicate .undef := rfl
@[simp] theorem State.powerOn_freeze (c : Config) : (State.powerOn c).freeze = .undef := rfl
@[simp] theorem State.powerOn_feedback (c : Config) : (State.powerOn c).feedback = .undef := rfl
@[simp] theorem State.powerOn_modindex (c : Config) : (State.powerOn c).modindex = .undef := rfl
@[simp] theorem State.powerOn_bitcrush (c : Config) : (State.powerOn c).bitcrush = c.bitcrushReset := rfl
@[simp] theorem State.powerOn_decimate (c : Config) : (State.powerOn c).decimate = c.decimateReset := rfl
@[simp] theorem State.powerOn_drive (c : Config) : (State.powerOn c).drive = c.driveReset := rfl
@[simp] theorem State.powerOn_frames (c : Config) : (State.powerOn c).frames = [] := rfl
@[simp] theorem State.powerOn_cp (c : Config) : (State.powerOn c).cp = 0 := rfl
@[simp] theorem State.powerOn_cs (c : Config) : (State.powerOn c).cs = [] := rfl

@[simp] theorem State.reset_ph : State.reset.ph = .replicate 0 := rfl
@[simp] theorem State.reset_inc : State.reset.inc = .replicate .undef := rfl
@[simp] theorem State.reset_fb : State.reset.fb = .replicate ⟨0, 0⟩ := rfl
@[simp] theorem State.reset_mx : State.reset.mx = .replicate .undef := rfl
@[simp] theorem State.reset_freeze : State.reset.freeze = .undef := rfl
@[simp] theorem State.reset_feedback : State.reset.feedback = .undef := rfl
@[simp] theorem State.reset_modindex : State.reset.modindex = .undef := rfl
@[simp] theorem State.reset_bitcrush : State.reset.bitcrush = Config.cfg.bitcrushReset := rfl
@[simp] theorem State.reset_decimate : State.reset.decimate = Config.cfg.decimateReset := rfl
@[simp] theorem State.reset_drive : State.reset.drive = Config.cfg.driveReset := rfl
@[simp] theorem State.reset_frames : State.reset.frames = [] := rfl
@[simp] theorem State.reset_cp : State.reset.cp = 0 := rfl
@[simp] theorem State.reset_cs : State.reset.cs = [] := rfl

end Sys2Proof.Machine
end

