-- ==== Sys2Proof/Laws/Ops.lean ====
section
/-! SUPPORT. What the register operations and the frame-buffer operations can do, said once. -/

namespace Sys2Proof.Machine

/-! One entry per voice. -/

@[simp] theorem Six.get_set {α : Type} (x : Six α) (i j : Fin 6) (a : α) :
    (x.set i a).get j = if j = i then a else x.get j := by
  fin_cases i <;> fin_cases j <;> rfl

@[simp] theorem Six.get_replicate {α : Type} (a : α) (i : Fin 6) : (Six.replicate a).get i = a := by
  fin_cases i <;> rfl

@[simp] theorem Six.get_ofFn {α : Type} (f : Fin 6 → α) (i : Fin 6) : (Six.ofFn f).get i = f i := by
  fin_cases i <;> rfl

theorem Six.ext_get {α : Type} {x y : Six α} (h : ∀ i, x.get i = y.get i) : x = y := by
  have h0 : x.v0 = y.v0 := h 0
  have h1 : x.v1 = y.v1 := h 1
  have h2 : x.v2 = y.v2 := h 2
  have h3 : x.v3 = y.v3 := h 3
  have h4 : x.v4 = y.v4 := h 4
  have h5 : x.v5 = y.v5 := h 5
  cases x
  cases y
  simp_all

/-- `SET_STRUCTURE` writes every coefficient (R26). -/
@[simp] theorem State.setMx_get (s : State) (x : Six V) (i : Fin 6) : (s.setMx x).mx.get i = .val (x.get i) := by
  fin_cases i <;> rfl

/-! Reading registers, ending a command. -/

@[simp] theorem need_val {α : Type} (cp : Nat) (v : α) : need cp (.val v) = .ok v := rfl

@[simp] theorem need_undef {α : Type} (cp : Nat) : need cp (.undef : Reg α) = .error (.unwrittenRead cp) := rfl

theorem need_ok {α : Type} {cp : Nat} {x : Reg α} {v : α} : need cp x = .ok v ↔ x = .val v := by
  cases x <;> simp [need, raise]

theorem needSix_ok {cp : Nat} {x : Six (Reg V)} {y : Six V} :
    needSix cp x = .ok y ↔ ∀ i, x.get i = .val (y.get i) := by
  rcases x with ⟨a, b, c, d, e, f⟩
  rcases y with ⟨a', b', c', d', e', f'⟩
  constructor
  · intro h
    cases a <;> cases b <;> cases c <;> cases d <;> cases e <;> cases f <;>
      simp_all [needSix, need, raise, bind, Except.bind, pure, Except.pure]
    intro i
    fin_cases i <;> simp [Six.get, *]
  · intro h
    have h0 := h 0
    have h1 := h 1
    have h2 := h 2
    have h3 := h 3
    have h4 := h 4
    have h5 := h 5
    simp only [Six.get] at h0 h1 h2 h3 h4 h5
    subst h0 h1 h2 h3 h4 h5
    rfl

/-- The only fault reading six registers can raise. -/
theorem needSix_error {cp : Nat} {x : Six (Reg V)} {f : Fault} (h : needSix cp x = .error f) :
    f = .unwrittenRead cp := by
  rcases x with ⟨a, b, c, d, e, g⟩
  cases a <;> cases b <;> cases c <;> cases d <;> cases e <;> cases g <;>
    simp_all [needSix, need, raise, bind, Except.bind, pure, Except.pure]

@[simp] theorem finish_ok (n : Nat) (t : State) : finish n (.ok t) = .next (t.advance n) := rfl

@[simp] theorem finish_error (n : Nat) (f : Fault) : finish n (.error f) = .fault f := rfl

/-- A command answers a next state exactly when its body does, and that state is the body's moved past the command. -/
theorem finish_next {n : Nat} {body : Except Fault State} {t : State} :
    finish n body = .next t ↔ ∃ u, body = .ok u ∧ t = u.advance n := by
  cases body with
  | error f => simp [finish]
  | ok u => simp [finish, eq_comm]

/-- No command is refused. -/
theorem finish_not_refused (n : Nat) (body : Except Fault State) (r : Refusal) : finish n body ≠ .refused r := by
  cases body <;> simp [finish]

/-- A sequence of two parts answers exactly when both do. -/
theorem bind_ok {α β : Type} {x : Except Fault α} {f : α → Except Fault β} {b : β} :
    (x >>= f) = .ok b ↔ ∃ a, x = .ok a ∧ f a = .ok b := by
  cases x <;> simp [bind, Except.bind]

/-! The frame buffer. -/

namespace Memory

theorem cell_write_same (m : Memory) (a : Nat) (v : V) : (m.write a v).cell a = .val v := by
  induction m with
  | nil => simp [write, cell]
  | cons e rest ih =>
    obtain ⟨b, w⟩ := e
    simp only [write]
    split_ifs with h1 h2
    · simp [cell]
    · simp [cell]
    · simp [cell, h2, ih]

theorem cell_write_other (m : Memory) {a a' : Nat} (v : V) (h : a' ≠ a) : (m.write a v).cell a' = m.cell a' := by
  induction m with
  | nil => simp [write, cell, h]
  | cons e rest ih =>
    obtain ⟨b, w⟩ := e
    simp only [write]
    split_ifs with h1 h2
    · simp [cell, h]
    · subst h2
      simp [cell, h]
    · simp [cell, ih]

@[simp] theorem cell_write (m : Memory) (a a' : Nat) (v : V) :
    (m.write a v).cell a' = if a' = a then .val v else m.cell a' := by
  split_ifs with h
  · rw [h, cell_write_same]
  · exact cell_write_other m v h

/-- A read after a write (R62). -/
@[simp] theorem read_write (m : Memory) (a a' : Nat) (v : V) :
    (m.write a v).read a' = if a' = a then v else m.read a' := by
  unfold read
  rw [cell_write]
  split_ifs <;> rfl

theorem risingFrom_mono {lo lo' : Nat} (h : lo' ≤ lo) {m : Memory} (hm : risingFrom lo m = true) :
    risingFrom lo' m = true := by
  cases m with
  | nil => rfl
  | cons e rest =>
    simp only [risingFrom, Bool.and_eq_true, decide_eq_true_eq] at hm ⊢
    exact ⟨le_trans h hm.1, hm.2⟩

theorem risingFrom_write {lo : Nat} {m : Memory} {a : Nat} {v : V} (h : lo ≤ a) (hm : risingFrom lo m = true) :
    risingFrom lo (m.write a v) = true := by
  induction m generalizing lo with
  | nil => simp [write, risingFrom, h]
  | cons e rest ih =>
    obtain ⟨b, w⟩ := e
    simp only [risingFrom, Bool.and_eq_true, decide_eq_true_eq] at hm
    simp only [write]
    split_ifs with h1 h2
    · simp only [risingFrom, Bool.and_eq_true, decide_eq_true_eq]
      exact ⟨h, by omega, hm.2⟩
    · subst h2
      simp only [risingFrom, Bool.and_eq_true, decide_eq_true_eq]
      exact hm
    · simp only [risingFrom, Bool.and_eq_true, decide_eq_true_eq]
      exact ⟨hm.1, ih (by omega) hm.2⟩

/-- A write keeps the canonical form. -/
theorem write_wf {m : Memory} (a : Nat) (v : V) (hm : m.wf = true) : (m.write a v).wf = true :=
  risingFrom_write (Nat.zero_le a) hm

/-- A write to a cell the space has keeps the list inside the space. -/
theorem write_below {n : Nat} {m : Memory} {a : Nat} {v : V} (h : a < n) (hm : m.below n = true) :
    (m.write a v).below n = true := by
  induction m with
  | nil => simp [write, below, h]
  | cons e rest ih =>
    obtain ⟨b, w⟩ := e
    simp only [below, Bool.and_eq_true, decide_eq_true_eq] at hm
    simp only [write]
    split_ifs
    · simp only [below, Bool.and_eq_true, decide_eq_true_eq]
      exact ⟨h, hm⟩
    · simp only [below, Bool.and_eq_true, decide_eq_true_eq]
      exact ⟨h, hm.2⟩
    · simp only [below, Bool.and_eq_true, decide_eq_true_eq]
      exact ⟨hm.1, ih hm.2⟩

theorem cell_of_risingFrom {lo : Nat} {m : Memory} (hm : risingFrom lo m = true) {a : Nat} (h : a < lo) :
    m.cell a = .undef := by
  induction m generalizing lo with
  | nil => rfl
  | cons e rest ih =>
    obtain ⟨b, w⟩ := e
    simp only [risingFrom, Bool.and_eq_true, decide_eq_true_eq] at hm
    rw [cell, if_neg (by omega)]
    exact ih hm.2 (by omega)

theorem ext_from {lo : Nat} {m m' : Memory} (hm : risingFrom lo m = true) (hm' : risingFrom lo m' = true)
    (h : ∀ a, m.cell a = m'.cell a) : m = m' := by
  induction m generalizing lo m' with
  | nil =>
    cases m' with
    | nil => rfl
    | cons e rest =>
      have := h e.1
      simp [cell] at this
  | cons e rest ih =>
    obtain ⟨b, w⟩ := e
    cases m' with
    | nil =>
      have := h b
      simp [cell] at this
    | cons e' rest' =>
      obtain ⟨b', w'⟩ := e'
      simp only [risingFrom, Bool.and_eq_true, decide_eq_true_eq] at hm hm'
      have hb : b = b' := by
        rcases Nat.lt_trichotomy b b' with hlt | heq | hgt
        · have := h b
          rw [cell, if_pos rfl, cell, if_neg (by omega), cell_of_risingFrom hm'.2 (by omega)] at this
          exact absurd this (by simp)
        · exact heq
        · have := h b'
          rw [cell, if_neg (by omega), cell, if_pos rfl, cell_of_risingFrom hm.2 (by omega)] at this
          exact absurd this (by simp)
      subst hb
      have hw := h b
      simp only [cell, if_pos] at hw
      have hr : rest = rest' := by
        refine ih hm.2 hm'.2 fun a => ?_
        by_cases ha : a = b
        · subst ha
          rw [cell_of_risingFrom hm.2 (by omega), cell_of_risingFrom hm'.2 (by omega)]
        · have := h a
          rwa [cell, if_neg ha, cell, if_neg ha] at this
      simp_all

/-- Two canonical memories with the same cells are the same list. -/
theorem ext_cell {m m' : Memory} (hm : m.wf = true) (hm' : m'.wf = true) (h : ∀ a, m.cell a = m'.cell a) : m = m' :=
  ext_from hm hm' h

/-- Nothing is listed after reset, which is canonical. -/
theorem reset_wf : State.reset.frames.wf = true := rfl

end Memory

@[simp] theorem frameCell_left (k : Nat) : frameCell k .left = 2 * k := rfl

@[simp] theorem frameCell_right (k : Nat) : frameCell k .right = 2 * k + 1 := rfl

end Sys2Proof.Machine
end

