-- ==== Sys2Proof/Laws/Frequency.lean ====
section
/-! SUPPORT. What the traversal shared by the frequency commands can do (R101, R102, R111), said once. -/

namespace Sys2Proof.Machine

/-- What a traversal leaves in voice `i`'s increment. -/
def assigned (fz : Bool) (f : Fin 6 → Except Fault (Option V)) (x : Six (Reg V)) (i : Fin 6) : Reg V :=
  if fz = true ∧ i.val % 2 = 0 then x.get i
  else
    match f i with
    | .ok (some v) => .val v
    | .ok none => x.get i
    | .error _ => x.get i

theorem assignVoices_list {fz : Bool} {f : Fin 6 → Except Fault (Option V)} {l : List (Fin 6)} (hl : l.Nodup)
    {x y : Six (Reg V)} (h : assignVoices fz f l x = .ok y) (i : Fin 6) :
    y.get i = if i ∈ l then assigned fz f x i else x.get i := by
  induction l generalizing x with
  | nil =>
    simp only [assignVoices, Except.ok.injEq] at h
    simp [h]
  | cons j js ih =>
    obtain ⟨hj, hjs⟩ := List.nodup_cons.mp hl
    rw [assignVoices] at h
    split_ifs at h with hg
    · rw [ih hjs h]
      by_cases hij : i = j
      · subst hij
        simp [hj, assigned, hg]
      · simp [hij]
    · cases hf : f j with
      | error e => simp [hf] at h
      | ok o =>
        cases o with
        | none =>
          simp only [hf] at h
          rw [ih hjs h]
          by_cases hij : i = j
          · subst hij
            simp [hj, assigned, hg, hf]
          · simp [hij]
        | some v =>
          simp only [hf] at h
          rw [ih hjs h]
          by_cases hij : i = j
          · subst hij
            simp [hj, assigned, hg, hf]
          · simp [hij, assigned]

theorem mem_descending (i : Fin 6) : i ∈ descending := by fin_cases i <;> decide

theorem mem_ascending (i : Fin 6) : i ∈ ascending := by fin_cases i <;> decide

/-- A traversal that answers: every voice as `assigned` says. -/
theorem assignVoices_ok {fz : Bool} {f : Fin 6 → Except Fault (Option V)} {x y : Six (Reg V)}
    (h : assignVoices fz f descending x = .ok y) (i : Fin 6) : y.get i = assigned fz f x i := by
  rw [assignVoices_list (by decide) h, if_pos (mem_descending i)]

/-- A traversal answers when no voice it computes faults. -/
theorem assignVoices_answers {fz : Bool} {f : Fin 6 → Except Fault (Option V)} (l : List (Fin 6)) (x : Six (Reg V))
    (hf : ∀ i, ¬(fz = true ∧ i.val % 2 = 0) → ∃ o, f i = .ok o) : ∃ y, assignVoices fz f l x = .ok y := by
  induction l generalizing x with
  | nil => exact ⟨x, rfl⟩
  | cons j js ih =>
    rw [assignVoices]
    split_ifs with hg
    · exact ih x
    · obtain ⟨o, ho⟩ := hf j hg
      cases o with
      | none => simpa [ho] using ih x
      | some v => simpa [ho] using ih (x.set j (.val v))

/-- A traversal whose voices cannot fault, in closed form. -/
theorem assignVoices_pure (fz : Bool) (g : Fin 6 → Option V) (x : Six (Reg V)) :
    assignVoices fz (fun i => .ok (g i)) descending x = .ok (Six.ofFn (assigned fz (fun i => .ok (g i)) x)) := by
  obtain ⟨y, hy⟩ := assignVoices_answers (f := fun i => .ok (g i)) descending x (fz := fz) fun i _ => ⟨g i, rfl⟩
  rw [hy]
  congr 1
  exact Six.ext_get fun i => by rw [assignVoices_ok hy, Six.get_ofFn]

/-- A traversal that faults does so with a fault of one of its voices. -/
theorem assignVoices_error {fz : Bool} {f : Fin 6 → Except Fault (Option V)} {l : List (Fin 6)} {x : Six (Reg V)}
    {e : Fault} (h : assignVoices fz f l x = .error e) : ∃ i, ¬(fz = true ∧ i.val % 2 = 0) ∧ f i = .error e := by
  induction l generalizing x with
  | nil => simp [assignVoices] at h
  | cons j js ih =>
    rw [assignVoices] at h
    split_ifs at h with hg
    · exact ih h
    · cases hf : f j with
      | error e' =>
        simp only [hf, Except.error.injEq] at h
        exact ⟨j, hg, by rw [hf, h]⟩
      | ok o =>
        cases o with
        | none => simp only [hf] at h; exact ih h
        | some v => simp only [hf] at h; exact ih h

end Sys2Proof.Machine
end

