-- ==== Sys2Proof/Laws/PerInstr.lean ====
section
/-! SUPPORT. Facts about every instruction as syntax, one lemma per constructor. -/

namespace Sys2Proof.Laws.EncodedLength

/-- A command's words are as many as its opcode says, one to five (R72, R80). -/
def Statement (i : Instr) : Prop := (encode i).length = i.words ∧ 1 ≤ i.words ∧ i.words ≤ longestCommand

theorem words_range (i : Instr) : 1 ≤ i.words ∧ i.words ≤ longestCommand := by
  unfold Instr.words longestCommand
  cases i <;> simp [Instr.opcode, Opcode.format, Format.operandWords]

theorem init : Statement .init := ⟨rfl, words_range _⟩
theorem setFreeze (b : Bool) : Statement (.setFreeze b) := ⟨rfl, words_range _⟩
theorem setFeedback (value : V) : Statement (.setFeedback value) := ⟨rfl, words_range _⟩
theorem setModindex (value : V) : Statement (.setModindex value) := ⟨rfl, words_range _⟩
theorem setBitcrush (level : V) : Statement (.setBitcrush level) := ⟨rfl, words_range _⟩
theorem setDecimate (level : V) : Statement (.setDecimate level) := ⟨rfl, words_range _⟩
theorem setDrive (drive : V) : Statement (.setDrive drive) := ⟨rfl, words_range _⟩
theorem freqFree (note spread fine : V) : Statement (.freqFree note spread fine) := ⟨rfl, words_range _⟩
theorem freqChord (note spread fine chord : V) : Statement (.freqChord note spread fine chord) :=
  ⟨rfl, words_range _⟩
theorem freqRational (n : Nat) (spread fine : V) : Statement (.freqRational n spread fine) :=
  ⟨rfl, words_range _⟩
theorem freqHarmonic (base spread fine detune : V) : Statement (.freqHarmonic base spread fine detune) :=
  ⟨rfl, words_range _⟩
theorem setStructure (value : V) : Statement (.setStructure value) := ⟨rfl, words_range _⟩
theorem procFm (count : Nat) : Statement (.procFm count) := ⟨rfl, words_range _⟩
theorem procAm (count : Nat) : Statement (.procAm count) := ⟨rfl, words_range _⟩

end Sys2Proof.Laws.EncodedLength
end

