-- ==== Sys2Proof/Laws/Voice.lean ====
section
/-! SUPPORT. What the checks, a voice, a frame and a block can do (R151 to R170), said once. -/

namespace Sys2Proof.Machine

/-- A phase passes its check exactly when it is in `[0,1)`, and passes unchanged. -/
theorem checkPhase_ok {cp : Nat} {p q : V} : checkPhase cp p = .ok q ↔ q = p ∧ 0 ≤ p ∧ p < 1 := by
  unfold checkPhase raise
  split_ifs with h
  · simp only [false_iff]
    rintro ⟨-, h0, h1⟩
    exact h.elim (fun h => absurd h0 (not_le.mpr h)) fun h => absurd h1 (not_lt.mpr h)
  · rw [not_or, not_lt, not_le] at h
    simp [h.1, h.2, eq_comm]

/-- The only fault a phase check raises. -/
theorem checkPhase_error {cp : Nat} {p : V} {f : Fault} (h : checkPhase cp p = .error f) : f = .phaseRange cp := by
  unfold checkPhase raise at h
  split_ifs at h
  simpa using h.symm

/-- The levels pass their checks exactly when the contracts of R243 hold. -/
theorem checkLevels_ok {s : State} {u : Unit} :
    checkLevels Config.cfg s = .ok u ↔ 0 < s.decimate ∧ 0 < s.bitcrush ∧ s.drive ≠ 0 := by
  unfold checkLevels raise
  have hs := Laws.Config.cfg_legal.sat_zero s.drive
  split_ifs with h1 h2 h3
  · simp [not_lt.mpr h1]
  · simp [not_lt.mpr h2]
  · simp [hs.mp h3]
  · simp [not_le.mp h1, not_le.mp h2, mt hs.mpr h3]

/-- The checks of R153 pass exactly when every register read is written and every level legal. -/
theorem snapshot_ok {s : State} {p : Params} :
    snapshot Config.cfg s = .ok p ↔ p.Of s ∧ p.LevelsLegal := by
  unfold snapshot
  simp only [bind_ok, pure, Except.pure, Except.ok.injEq, needSix_ok, need_ok, checkLevels_ok]
  constructor
  · rintro ⟨inc, hi, mx, hm, fbk, hf, md, hd, u, hl, rfl⟩
    exact ⟨⟨hi, hm, hf, hd, rfl, rfl, rfl⟩, hl⟩
  · rintro ⟨h, hl⟩
    refine ⟨p.inc, h.inc, p.mx, h.mx, p.feedback, h.feedback, p.modindex, h.modindex, (), ?_, ?_⟩
    · rw [h.decimate, h.bitcrush, h.drive]
      exact hl
    · rw [h.bitcrush, h.decimate, h.drive]

/-- One voice answers exactly when its two rail phases and its advanced phase are in `[0,1)`, and then does what R155 says. -/
theorem runVoice_ok {c : Config} {cp : Nat} {mode : Mode} {p : Params} {inp : Rails} {i : Fin 6} {x y : Chain} :
    runVoice c cp mode p inp i x = .ok y ↔
      (∃ pl, railPhase c cp mode p inp i x .left = .ok pl) ∧ (∃ pr, railPhase c cp mode p inp i x .right = .ok pr) ∧
      0 ≤ advancePhase (x.ph.get i) (p.inc.get i) ∧ advancePhase (x.ph.get i) (p.inc.get i) < 1 ∧
      y = plainVoice c mode p inp i x := by
  have hp : ∀ r q, railPhase c cp mode p inp i x r = .ok q → q = plainPhase c mode p inp i x r := by
    intro r q h
    cases mode with
    | am => simpa [railPhase, plainPhase, eq_comm] using h
    | fm => exact (checkPhase_ok.mp h).1
  unfold runVoice
  simp only [bind_ok, pure, Except.pure, Except.ok.injEq, checkPhase_ok]
  constructor
  · rintro ⟨pl, hl, pr, hr, q, ⟨rfl, h0, h1⟩, rfl⟩
    refine ⟨⟨pl, hl⟩, ⟨pr, hr⟩, h0, h1, ?_⟩
    rw [hp _ _ hl, hp _ _ hr]
    rfl
  · rintro ⟨⟨pl, hl⟩, ⟨pr, hr⟩, h0, h1, rfl⟩
    refine ⟨pl, hl, pr, hr, _, ⟨rfl, h0, h1⟩, ?_⟩
    rw [hp _ _ hl, hp _ _ hr]
    rfl

/-- Voices that answer do what the unchecked voices do. -/
theorem runVoices_ok {c : Config} {cp : Nat} {mode : Mode} {p : Params} {inp : Rails} {l : List (Fin 6)} {x y : Chain}
    (h : runVoices c cp mode p inp l x = .ok y) : y = plainVoices c mode p inp l x := by
  induction l generalizing x with
  | nil => simpa [runVoices, plainVoices, eq_comm] using h
  | cons i is ih =>
    rw [runVoices] at h
    cases hv : runVoice c cp mode p inp i x with
    | error e => simp [hv] at h
    | ok z =>
      simp only [hv] at h
      rw [plainVoices, ← (runVoice_ok.mp hv).2.2.2.2]
      exact ih h

/-- A frame that answers does what the unchecked frame does. -/
theorem runFrame_ok {c : Config} {cp : Nat} {mode : Mode} {p : Params} {k : Nat} {b b' : Block}
    (h : runFrame c cp mode p k b = .ok b') : b' = plainFrame c mode p k b := by
  unfold runFrame at h
  obtain ⟨x, hx, hb⟩ := bind_ok.mp h
  rw [runVoices_ok hx] at hb
  exact (Except.ok.inj hb).symm

/-- Frames that answer do what the unchecked frames do. -/
theorem runFrames_ok {c : Config} {cp : Nat} {mode : Mode} {p : Params} {n k : Nat} {b b' : Block}
    (h : runFrames c cp mode p n k b = .ok b') : b' = plainFrames c mode p n k b := by
  induction n generalizing k b with
  | zero => simpa [runFrames, plainFrames, eq_comm] using h
  | succ n ih =>
    rw [runFrames] at h
    cases hf : runFrame c cp mode p k b with
    | error e => simp [hf] at h
    | ok z =>
      simp only [hf] at h
      rw [plainFrames, ← runFrame_ok hf]
      exact ih h

/-- Everything a processing command that answers can have done (R151, R152, R153). -/
theorem procWith_next {mode : Mode} {count : Nat} {s t : State} (h : procWith Config.cfg mode count s = .next t) :
    count ≤ Config.cfg.fbFrames ∧
      ((count = 0 ∧ t = s.advance 1) ∨
        ∃ p : Params, count ≠ 0 ∧ p.Of s ∧ p.LevelsLegal ∧ t = (blockResult Config.cfg mode p count s).advance 1) := by
  obtain ⟨u, hu, rfl⟩ := finish_next.mp h
  obtain ⟨_, hc, hb⟩ := bind_ok.mp hu
  have hcount : count ≤ Config.cfg.fbFrames := by
    unfold checkCount raise at hc
    split_ifs at hc with hlt
    exact not_lt.mp hlt
  refine ⟨hcount, ?_⟩
  split_ifs at hb with h0
  · left
    refine ⟨h0, ?_⟩
    simp only [pure, Except.pure, Except.ok.injEq] at hb
    rw [hb]
  · right
    unfold runBlock at hb
    obtain ⟨p, hp, hb⟩ := bind_ok.mp hb
    obtain ⟨b, hf, hb⟩ := bind_ok.mp hb
    obtain ⟨hof, hl⟩ := snapshot_ok.mp hp
    refine ⟨p, h0, hof, hl, ?_⟩
    simp only [pure, Except.pure, Except.ok.injEq] at hb
    rw [← hb, runFrames_ok hf]
    rfl

/-- An advance stays in `[0,1)` exactly when its sum lies in `[0,2)` (R168). -/
theorem advancePhase_range {q inc : V} : (0 ≤ advancePhase q inc ∧ advancePhase q inc < 1) ↔ (0 ≤ q + inc ∧ q + inc < 2) := by
  unfold advancePhase
  split_ifs with h
  · constructor <;> rintro ⟨h1, h2⟩ <;> constructor <;> linarith
  · constructor <;> rintro ⟨h1, h2⟩ <;> constructor <;> linarith

/-- A phase sum wraps into `[0,1)` exactly when it lies in `[-1,2)` (R157). -/
theorem wrapOnce_range {q : V} : (0 ≤ wrapOnce q ∧ wrapOnce q < 1) ↔ (-1 ≤ q ∧ q < 2) := by
  unfold wrapOnce
  split_ifs with h h'
  · constructor <;> rintro ⟨h1, h2⟩ <;> constructor <;> linarith
  · constructor <;> rintro ⟨h1, h2⟩ <;> constructor <;> linarith
  · constructor <;> rintro ⟨h1, h2⟩ <;> constructor <;> linarith

/-- The rail phases of a voice exist in FM mode exactly when its two sums lie in `[-1,2)`. -/
theorem railPhase_fm_ok {c : Config} {cp : Nat} {p : Params} {inp : Rails} {i : Fin 6} {x : Chain} {r : Rail} :
    (∃ q, railPhase c cp .fm p inp i x r = .ok q) ↔ (-1 ≤ phaseSum c p inp i x r ∧ phaseSum c p inp i x r < 2) := by
  simp only [railPhase, checkPhase_ok, exists_eq_left, wrapOnce_range]

/-- The only fault a voice raises. -/
theorem runVoice_error {c : Config} {cp : Nat} {mode : Mode} {p : Params} {inp : Rails} {i : Fin 6} {x : Chain} {f : Fault}
    (h : runVoice c cp mode p inp i x = .error f) : f = .phaseRange cp := by
  have hp : ∀ r g, railPhase c cp mode p inp i x r = .error g → g = .phaseRange cp := by
    intro r g hg
    cases mode with
    | am => simp [railPhase] at hg
    | fm => exact checkPhase_error hg
  unfold runVoice at h
  cases hl : railPhase c cp mode p inp i x .left with
  | error g => simp [hl, bind, Except.bind] at h; rw [← h]; exact hp _ _ hl
  | ok pl =>
    cases hr : railPhase c cp mode p inp i x .right with
    | error g => simp [hl, hr, bind, Except.bind] at h; rw [← h]; exact hp _ _ hr
    | ok pr =>
      cases hq : checkPhase cp (advancePhase (x.ph.get i) (p.inc.get i)) with
      | error g => simp [hl, hr, hq, bind, Except.bind] at h; rw [← h]; exact checkPhase_error hq
      | ok q => simp [hl, hr, hq, bind, Except.bind, pure, Except.pure] at h

/-- The only fault a list of voices raises. -/
theorem runVoices_error {c : Config} {cp : Nat} {mode : Mode} {p : Params} {inp : Rails} {l : List (Fin 6)} {x : Chain}
    {f : Fault} (h : runVoices c cp mode p inp l x = .error f) : f = .phaseRange cp := by
  induction l generalizing x with
  | nil => simp [runVoices] at h
  | cons i is ih =>
    rw [runVoices] at h
    cases hv : runVoice c cp mode p inp i x with
    | error e => simp only [hv, Except.error.injEq] at h; rw [← h]; exact runVoice_error hv
    | ok z => simp only [hv] at h; exact ih h

/-- The only fault frames raise. -/
theorem runFrames_error {c : Config} {cp : Nat} {mode : Mode} {p : Params} {n k : Nat} {b : Block} {f : Fault}
    (h : runFrames c cp mode p n k b = .error f) : f = .phaseRange cp := by
  induction n generalizing k b with
  | zero => simp [runFrames] at h
  | succ n ih =>
    rw [runFrames] at h
    cases hf : runFrame c cp mode p k b with
    | error e =>
      simp only [hf, Except.error.injEq] at h
      rw [← h]
      unfold runFrame at hf
      cases hv : runVoices c cp mode p (frameInput b.frames k) ascending (frameStart b) with
      | error g => simp [hv, bind, Except.bind] at hf; rw [← hf]; exact runVoices_error hv
      | ok x => simp [hv, bind, Except.bind, pure, Except.pure] at hf
    | ok z => simp only [hf] at h; exact ih h

/-- Once the checks of R151 and R153 have passed, a block answers or stops with the one fault its frames can raise. -/
theorem procWith_checked {mode : Mode} {count : Nat} {s : State} {p : Params} (hp : p.Of s) (hl : p.LevelsLegal)
    (h1 : 1 ≤ count) (h2 : count ≤ Config.cfg.fbFrames) :
    procWith Config.cfg mode count s =
      match runFrames Config.cfg s.cp mode p count 0 s.block with
      | .ok _ => .next ((blockResult Config.cfg mode p count s).advance 1)
      | .error _ => .fault (.phaseRange s.cp) := by
  have hc : checkCount Config.cfg s.cp count = .ok () := if_neg (not_lt.mpr h2)
  have hs : snapshot Config.cfg s = .ok p := snapshot_ok.mpr ⟨hp, hl⟩
  have hb : (⟨s.ph, s.fb, s.frames⟩ : Block) = s.block := rfl
  unfold procWith runBlock
  cases hf : runFrames Config.cfg s.cp mode p count 0 s.block with
  | error f =>
    simp [hc, hs, hb, hf, bind, Except.bind, show count ≠ 0 by omega, finish, runFrames_error hf]
  | ok b =>
    have := runFrames_ok hf
    simp [hc, hs, hb, hf, bind, Except.bind, pure, Except.pure, show count ≠ 0 by omega, finish, blockResult, ← this]

/-- A voice leaves the other voices' phases and advances its own (R168). -/
theorem plainVoice_ph {c : Config} {mode : Mode} {p : Params} {inp : Rails} {i j : Fin 6} {x : Chain} :
    (plainVoice c mode p inp i x).ph.get j =
      if j = i then advancePhase (x.ph.get i) (p.inc.get i) else x.ph.get j := by
  simp [plainVoice, voiceUpdate]

/-- Distinct voices advance each its own phase (R168). -/
theorem plainVoices_ph {c : Config} {mode : Mode} {p : Params} {inp : Rails} {l : List (Fin 6)} (hl : l.Nodup) {x : Chain}
    (j : Fin 6) : (plainVoices c mode p inp l x).ph.get j =
      if j ∈ l then advancePhase (x.ph.get j) (p.inc.get j) else x.ph.get j := by
  induction l generalizing x with
  | nil => simp [plainVoices]
  | cons i is ih =>
    obtain ⟨hi, his⟩ := List.nodup_cons.mp hl
    rw [plainVoices, ih his, plainVoice_ph]
    by_cases h : j = i
    · subst h
      simp [hi]
    · simp [h]

/-- A frame advances every phase once. -/
theorem plainFrame_ph {c : Config} {mode : Mode} {p : Params} {k : Nat} {b : Block} (j : Fin 6) :
    (plainFrame c mode p k b).ph.get j = advancePhase (b.ph.get j) (p.inc.get j) := by
  simp only [plainFrame]
  rw [plainVoices_ph (by decide), if_pos (mem_ascending j)]
  rfl

end Sys2Proof.Machine
end

