-- ==== Sys2Proof/Machine/Assembler.lean ====
section
/-! DEFINITION. The assembler syntax (R83) and its four pseudo-instructions (R84): from a line of text to an abstract command, and
from a text to the words of its stream. Nothing in the machine reads it. -/

namespace Sys2Proof.Machine.Assembler

/-- A text cut at every `sep`. -/
def splitAt (sep : Char) : List Char → List (List Char)
  | [] => [[]]
  | c :: cs =>
    if c = sep then [] :: splitAt sep cs
    else
      match splitAt sep cs with
      | [] => [[c]]
      | w :: ws => (c :: w) :: ws

/-- A blank between the parts of a line. -/
def isBlank (c : Char) : Bool := c == ' ' || c == '\t' || c == '\r'

/-- A text without the blanks at its two ends. -/
def trim (cs : List Char) : List Char := ((cs.dropWhile isBlank).reverse.dropWhile isBlank).reverse

/-- A line up to its comment, "from `;` to the end of the line" (R83). -/
def uncommented (cs : List Char) : List Char := cs.takeWhile (fun c => c != ';')

/-- The value of a run of decimal digits after those already read. -/
def digitsFrom : Nat → List Char → Option Nat
  | n, [] => some n
  | n, c :: cs => if c.isDigit then digitsFrom (10 * n + (c.toNat - '0'.toNat)) cs else none

/-- A decimal natural number. -/
def natural (cs : List Char) : Option Nat :=
  match cs with
  | [] => none
  | c :: cs => digitsFrom 0 (c :: cs)

/-- A decimal without sign: `60` or `0.25`. -/
def unsignedDecimal (cs : List Char) : Option V :=
  match splitAt '.' cs with
  | [whole] => (natural whole).map (fun n => (n : V))
  | [whole, part] => do
    let n ← natural whole
    let m ← natural part
    return (n : V) + (m : V) / ((10 ^ part.length : Nat) : V)
  | _ => none

/-- A text with an optional minus sign before what `read` reads. -/
def signed (read : List Char → Option V) (cs : List Char) : Option V :=
  match cs with
  | '-' :: rest => (read rest).map (fun v => -v)
  | _ => read cs

/-- A signed integer. -/
def integer (cs : List Char) : Option V := signed (fun t => (natural t).map (fun n => (n : V))) cs

/-- A value operand (R83): a decimal, or a fraction of integers. -/
def valueOperand (cs : List Char) : Option V :=
  match splitAt '/' cs with
  | [t] => signed unsignedDecimal t
  | [a, b] => do
    let x ← integer (trim a)
    let y ← integer (trim b)
    if y = 0 then none else return x / y
  | _ => none

/-- A count or bound (R83): `#` and a decimal natural number below `2^24`. -/
def countOperand (cs : List Char) : Option Nat :=
  match cs with
  | '#' :: rest =>
    match natural rest with
    | some n => if n < 2 ^ 24 then some n else none
    | none => none
  | _ => none

/-- The bit operand of `SET_FREEZE` (R83). -/
def bitOperand (cs : List Char) : Option Bool :=
  match cs with
  | ['0'] => some false
  | ['1'] => some true
  | _ => none

/-- The command of a mnemonic and its operands in the order of R77 (R83, R84). -/
def command (mnemonic : List Char) (ops : List (List Char)) : Option Instr :=
  match String.ofList mnemonic, ops with
  | "INIT", [] => some .init
  | "SET_FREEZE", [b] => (bitOperand b).map .setFreeze
  | "FREEZE", [] => some (.setFreeze true)
  | "UNFREEZE", [] => some (.setFreeze false)
  | "SET_FEEDBACK", [a] => (valueOperand a).map .setFeedback
  | "SET_MODINDEX", [a] => (valueOperand a).map .setModindex
  | "SET_BITCRUSH", [a] => (valueOperand a).map .setBitcrush
  | "SET_DECIMATE", [a] => (valueOperand a).map .setDecimate
  | "SET_DRIVE", [a] => (valueOperand a).map .setDrive
  | "FREQ_FREE", [a, b, c] => do
    return .freqFree (← valueOperand a) (← valueOperand b) (← valueOperand c)
  | "FREQ_CHORD", [a, b, c, d] => do
    return .freqChord (← valueOperand a) (← valueOperand b) (← valueOperand c) (← valueOperand d)
  | "FREQ_RATIONAL", [n, a, b] => do
    return .freqRational (← countOperand n) (← valueOperand a) (← valueOperand b)
  | "FREQ_HARMONIC", [a, b, c, d] => do
    return .freqHarmonic (← valueOperand a) (← valueOperand b) (← valueOperand c) (← valueOperand d)
  | "SET_STRUCTURE", [a] => (valueOperand a).map .setStructure
  | "PROC_FM", [n] => (countOperand n).map .procFm
  | "PROC_AM", [n] => (countOperand n).map .procAm
  | "PROC", [mode, n] =>
    if mode = ['F', 'M'] then (countOperand n).map .procFm
    else if mode = ['A', 'M'] then (countOperand n).map .procAm
    else none
  | _, _ => none

/-- The commands of one line: one, or none where the line is empty or only a comment; no answer where it is no line of the
language (R83). -/
def line (cs : List Char) : Option (List Instr) :=
  match trim (uncommented cs) with
  | [] => some []
  | c :: rest =>
    match trim ((c :: rest).dropWhile (fun d => !isBlank d)) with
    | [] => (command ((c :: rest).takeWhile (fun d => !isBlank d)) []).map (fun i => [i])
    | o :: os =>
      (command ((c :: rest).takeWhile (fun d => !isBlank d)) ((splitAt ',' (o :: os)).map trim)).map (fun i => [i])

/-- The commands of a list of lines, in order: no answer where one line has none. -/
def lines : List (List Char) → Option (List Instr)
  | [] => some []
  | l :: ls => do
    let is ← line l
    let js ← lines ls
    return is ++ js

/-- The words of a text (R83): one command a line, every value operand exactly a binary32 value or the text is refused. -/
def assemble (text : List Char) : Option (List Word) := do
  let is ← lines (splitAt '\n' text)
  if is.all Instr.wellFormed then return encodeStream is else none

end Sys2Proof.Machine.Assembler
end

