-- ==== Sys2Proof/Tests/Fixture.lean ====
section
/-! SUPPORT. The test configuration `CFG_T` (R9, R16, 95_test_vectors section 1): values invented by the spec so that its vectors can be
computed; no claim about the hardware. -/

namespace Sys2Proof.Tests

/-- `CHORD_ROM` of `CFG_T`: rows 0, 1, 2 written out, rows 3 to 10 by their formula. -/
def chordT (a : Nat) : V :=
  match a / 6, a % 6 with
  | 1, 1 => 3
  | 1, 2 => 7
  | 1, 3 => 10
  | 2, 1 => 4
  | 2, 2 => 7
  | 2, 3 => 11
  | _, 0 => 0
  | _, 4 => 1199 / 100
  | _, 5 => 12
  | 0, _ => 0
  | c, 1 => (c : V) / 2
  | c, 2 => (c : V)
  | c, _ => (c : V) + 1

/-- `FRATIO_T` (R16). -/
def fratioT (x : V) : V :=
  let k := Rat.floor (x / 12)
  let m := 1 + (x - 12 * (k : V)) / 12
  if 0 ≤ k then (2 ^ k.toNat : Nat) * m else m / (2 ^ (-k).toNat : Nat)

/-- The root of a natural number that is a square, by its bits from `2^b` down. -/
def isqrt : Nat → Nat → Nat → Nat
  | 0, r, n => if (r + 1) * (r + 1) ≤ n then r + 1 else r
  | b + 1, r, n => isqrt b (if (r + 2 ^ (b + 1)) * (r + 2 ^ (b + 1)) ≤ n then r + 2 ^ (b + 1) else r) n

/-- `SQRT` of `CFG_T`: exact on the squares of rationals; no vector uses it elsewhere. -/
def sqrtT (y : V) : V := (isqrt 16 0 y.num.natAbs : V) / (isqrt 16 0 y.den : V)

/-- `SAT_T` (R16). -/
def satT (x : V) : V := x / (1 + if 0 ≤ x then x else -x)

/-- `CFG_T` (R9). -/
def cfgT : Config where
  sineSize := 4
  sineRom k := match k with | 1 => 1 | 3 => -1 | _ => 0
  rcosSize := 3
  rcosRom k := match k with | 0 => 0 | 1 => 1 / 4 | 2 => 3 / 4 | _ => 1
  chordRom := chordT
  structRom a := ((a % 8 : Nat) : V) * ((a / 8 + 1 : Nat) : V) / 42
  refNote := 60
  refFreq := 1 / 64
  fratio := fratioT
  sqrt := sqrtT
  sat := satT
  fbOffset := 0
  decimateReset := 16777216
  bitcrushReset := 16777216
  driveReset := 1 / 1024
  fbFrames := 64
  ratTie := .lower

end Sys2Proof.Tests
end

