-- ==== Sys2Proof/Tests/Slice0.lean ====
section
/-! SUPPORT. The model's own tests: expected results from the spec's worked examples and vectors (R85, 95_test_vectors), one step on a small
state each. `With cfgT` runs a meaning under the spec's fixture configuration. -/

-- One test after the other: each waits for the kernel, and all at once they would hold more threads than the check allows.
set_option Elab.async false

namespace Sys2Proof.Tests

open Sys2Proof.Machine

/-! Reading an outcome. -/

def after (r : Result) : Option State :=
  match r with
  | .next t => some t
  | .fault _ => none
  | .refused _ => none

def faultOf (r : Result) : Option Fault :=
  match r with
  | .next _ => none
  | .fault f => some f
  | .refused _ => none

def incOf (r : Result) : Option (Six (Reg V)) := (after r).map (fun t => t.inc)

def mxOf (r : Result) : Option (Six (Reg V)) := (after r).map (fun t => t.mx)

def framesOf (r : Result) : Option Memory := (after r).map (fun t => t.frames)

def vals (a b c d e f : V) : Six (Reg V) := ⟨.val a, .val b, .val c, .val d, .val e, .val f⟩

def decoded (ws : List Word) : Option (Instr × List Word) :=
  match decode ws with
  | .ok x => some x
  | .error _ => none

def decodeFaultOf (ws : List Word) : Option DecodeError :=
  match decode ws with
  | .ok _ => none
  | .error e => some e

/-! Well-formedness: an ill-formed term for each check. -/

theorem test_wf_third_is_no_operand : (Instr.setFeedback (1 / 3)).wellFormed = false := by decide +kernel
theorem test_wf_two_to_128_is_too_large : (Instr.setModindex (2 ^ 128)).wellFormed = false := by decide +kernel
theorem test_wf_below_least_subnormal : (Instr.setBitcrush (1 / 2 ^ 150)).wellFormed = false := by decide +kernel
theorem test_wf_twenty_five_bits : (Instr.setDecimate (2 ^ 24 + 1)).wellFormed = false := by decide +kernel
theorem test_wf_setDrive : (Instr.setDrive (1 / 10)).wellFormed = false := by decide +kernel
theorem test_wf_setStructure : (Instr.setStructure (1 / 7)).wellFormed = false := by decide +kernel
theorem test_wf_freqFree :
    ((Instr.freqFree (1 / 3) 0 0).wellFormed || (Instr.freqFree 0 (1 / 3) 0).wellFormed ||
      (Instr.freqFree 0 0 (1 / 3)).wellFormed) = false := by decide +kernel
theorem test_wf_freqChord :
    ((Instr.freqChord (1 / 3) 0 0 0).wellFormed || (Instr.freqChord 0 (1 / 3) 0 0).wellFormed ||
      (Instr.freqChord 0 0 (1 / 3) 0).wellFormed || (Instr.freqChord 0 0 0 (1 / 6)).wellFormed) = false := by
  decide +kernel
theorem test_wf_freqRational :
    ((Instr.freqRational (2 ^ 24) 1 1).wellFormed || (Instr.freqRational 8 (1 / 3) 1).wellFormed ||
      (Instr.freqRational 8 1 (1 / 3)).wellFormed) = false := by decide +kernel
theorem test_wf_freqHarmonic :
    ((Instr.freqHarmonic (1 / 3) 0 0 0).wellFormed || (Instr.freqHarmonic 0 (1 / 3) 0 0).wellFormed ||
      (Instr.freqHarmonic 0 0 (1 / 3) 0).wellFormed || (Instr.freqHarmonic 0 0 0 (21 / 100)).wellFormed) = false := by
  decide +kernel
theorem test_wf_procFm : (Instr.procFm (2 ^ 24)).wellFormed = false := by decide +kernel
theorem test_wf_procAm : (Instr.procAm (2 ^ 24)).wellFormed = false := by decide +kernel
theorem test_wf_largest_value : (Instr.setFeedback ((2 ^ 24 - 1) * 2 ^ 104)).wellFormed = true := by decide +kernel
theorem test_wf_least_value : (Instr.setFeedback (-1 / 2 ^ 149)).wellFormed = true := by decide +kernel

/-! Decoding: one word list per constructor, written out from R71, R75 and R77 (the operand words are 95's list). -/

theorem test_decode_init : decoded [0x01000000#32] = some (.init, []) := by decide +kernel
theorem test_decode_setFreeze : decoded [0x10000001#32] = some (.setFreeze true, []) := by decide +kernel
theorem test_decode_setFeedback : decoded [0x11000000#32, 0xBF800000#32] = some (.setFeedback (-1), []) := by
  decide +kernel
theorem test_decode_setModindex : decoded [0x12000000#32, 0x3E800000#32] = some (.setModindex (1 / 4), []) := by
  decide +kernel
theorem test_decode_setBitcrush : decoded [0x13000000#32, 0x40800000#32] = some (.setBitcrush 4, []) := by decide +kernel
theorem test_decode_setDecimate : decoded [0x14000000#32, 0x41000000#32] = some (.setDecimate 8, []) := by decide +kernel
theorem test_decode_setDrive : decoded [0x15000000#32, 0x3F800000#32] = some (.setDrive 1, []) := by decide +kernel
theorem test_decode_freqFree :
    decoded [0x20000000#32, 0x42700000#32, 0x41400000#32, 0x00000000#32] = some (.freqFree 60 12 0, []) := by
  decide +kernel
theorem test_decode_freqChord :
    decoded [0x21000000#32, 0x42900000#32, 0x40E00000#32, 0x00000000#32, 0x3E000000#32] =
      some (.freqChord 72 7 0 (1 / 8), []) := by decide +kernel
theorem test_decode_freqRational :
    decoded [0x22000008#32, 0x3FC00000#32, 0x42700000#32] = some (.freqRational 8 (3 / 2) 60, []) := by decide +kernel
theorem test_decode_freqHarmonic :
    decoded [0x23000000#32, 0xC0200000#32, 0x3F800000#32, 0x42700000#32, 0x00000000#32] =
      some (.freqHarmonic (-5 / 2) 1 60 0, []) := by decide +kernel
theorem test_decode_setStructure : decoded [0x30000000#32, 0x3F7FFFFF#32] =
    some (.setStructure (16777215 / 16777216), []) := by decide +kernel
theorem test_decode_procFm : decoded [0x40000040#32, 0x10000000#32] = some (.procFm 64, [0x10000000#32]) := by
  decide +kernel
theorem test_decode_procAm : decoded [0x41000003#32] = some (.procAm 3, []) := by decide +kernel

/-- D-2 to D-7. -/
theorem test_decode_illegal_headers :
    [0x00000000#32, 0xFFFFFFFF#32, 0x02000000#32, 0x01000001#32, 0x10000002#32, 0x11000001#32].map
      (fun h => decodeFaultOf [h, 0x3F000000#32]) = List.replicate 6 (some .illegalCommand) := by decide +kernel
/-- D-8, D-10. -/
theorem test_decode_truncated :
    [[0x11000000#32], [0x20000000#32, 0x7F800000#32]].map decodeFaultOf =
      [some .truncatedCommand, some .truncatedCommand] := by decide +kernel
/-- D-11 to D-14. -/
theorem test_decode_illegal_operands :
    [[0x11000000#32, 0x7F800000#32], [0x11000000#32, 0xFF800000#32], [0x11000000#32, 0x7FC00000#32],
      [0x21000000#32, 0x42700000#32, 0#32, 0#32, 0x7F800000#32]].map decodeFaultOf =
      List.replicate 4 (some .illegalOperand) := by decide +kernel
/-- D-15, D-16, D-17: negative zero, the least subnormal, the largest value. -/
theorem test_operand_values :
    [0x80000000#32, 0x00000001#32, 0x7F7FFFFF#32].map value32 =
      [some 0, some (1 / 2 ^ 149), some 340282346638528859811704183484516925440] := by decide +kernel
theorem test_encode_values :
    [(1 : V) / 8, 15 / 16, -9 / 2, 120, 1 / 2 ^ 149, (2 ^ 24 - 1) * 2 ^ 104, 7689557 / 8388608].map encodeValue =
      [0x3E000000#32, 0x3F700000#32, 0xC0900000#32, 0x42F00000#32, 0x00000001#32, 0x7F7FFFFF#32, 0x3F6AAAAA#32] := by
  decide +kernel
/-- The match and mask columns of R77. -/
theorem test_opcode_map :
    Opcode.all.map (fun o => (o.matchWord, o.mask)) =
      [(0x01000000#32, 0xFFFFFFFF#32), (0x10000000#32, 0xFFFFFFFE#32), (0x11000000#32, 0xFFFFFFFF#32),
       (0x12000000#32, 0xFFFFFFFF#32), (0x13000000#32, 0xFFFFFFFF#32), (0x14000000#32, 0xFFFFFFFF#32),
       (0x15000000#32, 0xFFFFFFFF#32), (0x20000000#32, 0xFFFFFFFF#32), (0x21000000#32, 0xFFFFFFFF#32),
       (0x22000000#32, 0xFF000000#32), (0x23000000#32, 0xFFFFFFFF#32), (0x30000000#32, 0xFFFFFFFF#32),
       (0x40000000#32, 0xFF000000#32), (0x41000000#32, 0xFF000000#32)] := by decide +kernel
theorem test_decodeTableWord : decodeTableWord 32 0x40000007 = some (.procFm 7) := by decide +kernel
theorem test_decodeTableWord_zero_operands : decodeTableWord 32 0x21000000 = some (.freqChord 0 0 0 0) := by
  decide +kernel

/-! Parameter commands (95 section 3.2), on states that need no configuration. -/

/-- After power-on under the fixture, with the first two frames silent. -/
def start : State := { State.powerOn cfgT with frames := [(0, 0), (1, 0), (2, 0), (3, 0)] }

theorem test_init_resets_and_keeps_frames :
    (after (initWith cfgT { start with frames := [(0, 5), (1, -7)], freeze := .val true, bitcrush := 4, cp := 5 })) =
      some { State.powerOn cfgT with frames := [(0, 5), (1, -7)], cp := 6 } := by decide +kernel
theorem test_setFreeze : after (execSetFreeze true start) = some { start with freeze := .val true, cp := 1 } := by
  decide +kernel
theorem test_setFeedback : after (execSetFeedback (-3) start) = some { start with feedback := .val (-3), cp := 2 } := by
  decide +kernel
theorem test_setModindex :
    after (execSetModindex (1 / 3) start) = some { start with modindex := .val (1 / 3), cp := 2 } := by decide +kernel
theorem test_setBitcrush_zero : after (execSetBitcrush 0 start) = some { start with bitcrush := 0, cp := 2 } := by
  decide +kernel
theorem test_setDecimate_zero : after (execSetDecimate 0 start) = some { start with decimate := 0, cp := 2 } := by
  decide +kernel
theorem test_setDrive_zero : after (execSetDrive 0 start) = some { start with drive := 0, cp := 2 } := by decide +kernel

/-! Frequency commands (95 sections 3.3 to 3.8). -/

def unfrozen : State := { start with freeze := .val false }

/-- E-3. -/
theorem test_freqFree : incOf (freqFreeWith cfgT 48 7 (1 / 2) unfrozen) =
    some (vals (25 / 3072) (13 / 1024) (29 / 1536) (43 / 1536) (11 / 256) (47 / 768)) := by decide +kernel
/-- E-7. -/
theorem test_freqFree_frozen : incOf (freqFreeWith cfgT 72 0 0 { start with freeze := .val true }) =
    some ⟨.undef, .val (1 / 32), .undef, .val (1 / 32), .undef, .val (1 / 32)⟩ := by decide +kernel
/-- C-1. -/
theorem test_freqChord : incOf (freqChordWith cfgT 60 7 0 (1 / 8) unfrozen) =
    some (vals (1 / 64) (19 / 768) (5 / 128) (11 / 192) (5 / 64) (2399 / 19200)) := by decide +kernel
/-- C-5. -/
theorem test_freqChord_guard : incOf (freqChordWith cfgT 60 (-30) 0 0 unfrozen) =
    some ⟨.val (1 / 64), .val (2399 / 614400), .val (1 / 2048), .undef, .undef, .undef⟩ := by decide +kernel
/-- B-3. -/
theorem test_freqRational : incOf (freqRationalWith cfgT 8 (3 / 4) 60 unfrozen) =
    some (vals (1 / 64) (3 / 256) (9 / 1024) (5 / 768) (5 / 1024) (15 / 4096)) := by decide +kernel
/-- B-9: the bound is tested first. -/
theorem test_freqRational_faults : faultOf (freqRationalWith cfgT 0 0 60 unfrozen) = some (.maxdenZero 0) := by
  decide +kernel
/-- H-2. -/
theorem test_freqHarmonic : incOf (freqHarmonicWith cfgT (-5 / 2) 1 60 0 unfrozen) =
    some (vals (1 / 320) (1 / 256) (1 / 192) 0 (1 / 64) (1 / 32)) := by decide +kernel
/-- H-8's last command: only voices 1, 3, 5 are evaluated. -/
theorem test_freqHarmonic_frozen :
    incOf (freqHarmonicWith cfgT 1 1 60 (21 / 100) { start with freeze := .val true }) =
      some ⟨.undef, .val (11 / 320), .undef, .val (17 / 160), .undef, .val (15 / 64)⟩ := by decide +kernel

/-- N-1, N-4, N-5, N-6, N-8, N-9, N-11 by both searches. -/
theorem test_nearest :
    [(-5 : V), 3 / 2, 5, 17 / 2, 11, 2399 / 200, 100].map
      (fun q => (nearest (chordRow cfgT 1) q, nearestSearch (chordRow cfgT 1) q)) =
      [(0, 0), (1, 1), (2, 2), (3, 3), (4, 4), (5, 5), (5, 5)] := by decide +kernel
/-- A-1, A-3, A-5, A-8, A-13, A-15. -/
theorem test_ratApprox :
    [((3 : V) / 10, 2), (3 / 10, 10), (1 / 4, 2), (99 / 100, 3), (27 / 32, 8), (243 / 256, 8)].map
      (fun x => ratApprox .lower x.1 x.2) = [(1, 2), (3, 10), (0, 1), (1, 1), (5, 6), (1, 1)] := by decide +kernel
/-- A-4, A-5, A-6 with the other tie. -/
theorem test_ratApprox_upper :
    [((1 : V) / 2, 1), (1 / 4, 2), (3 / 4, 2)].map (fun x => ratApprox .upper x.1 x.2) =
      [(1, 1), (1, 2), (1, 1)] := by decide +kernel

/-! The modulation router (95 section 3.9). -/

/-- M-4. -/
theorem test_setStructure : mxOf (setStructureWith cfgT (1 / 4) start) =
    some (vals (29 / 672) (29 / 336) (29 / 224) (29 / 168) (145 / 672) (29 / 112)) := by decide +kernel
/-- M-11. -/
theorem test_setStructure_range : faultOf (setStructureWith cfgT 1 start) = some (.structRange 0) := by decide +kernel

/-! The processing commands (95 sections 3.10 and 3.11). -/

/-- The base state of 95 section 3.11, phases and increments as given, one input frame. -/
def base (ph inc l r : V) : State :=
  { start with
    ph := .replicate ph, inc := .replicate (.val inc), mx := .replicate (.val 0), freeze := .val false,
    feedback := .val 0, modindex := .val 0, drive := 1, frames := [(0, l), (1, r)] }

/-- F-15. -/
theorem test_procFm :
    after (procWith cfgT .fm 1 { base (3 / 4) (1 / 4) 0 0 with decimate := 3 / 2, bitcrush := 3 }) =
      some { base (3 / 4) (1 / 4) 0 0 with
        decimate := 3 / 2, bitcrush := 3, ph := .replicate 0, fb := .replicate ⟨-2 / 25, -1 / 20⟩,
        frames := [(0, -3 / 5), (1, -3 / 8)], cp := 1 } := by decide +kernel
/-- F-24: the FM cascade. -/
theorem test_procFm_cascade :
    framesOf (procWith cfgT .fm 1 { base 0 (1 / 4) 0 0 with
      mx := .replicate (.val (1 / 2)), modindex := .val (1 / 4), decimate := 240, bitcrush := 60 }) =
      some [(0, 223 / 700), (1, 7141 / 17325)] := by decide +kernel
/-- R172's worked example. -/
theorem test_procAm :
    framesOf (procWith cfgT .am 1 { base 0 0 (1 / 4) (-1 / 4) with
      inc := vals (1 / 64) (1 / 32) (1 / 16) (1 / 8) (1 / 4) (1 / 2)
      mx := vals (1 / 12) (1 / 6) (1 / 4) (1 / 3) (5 / 12) (1 / 2)
      feedback := .val (1 / 2), modindex := .val (1 / 2), bitcrush := 4, decimate := 8 }) =
      some [(0, 0), (1, 71 / 180)] := by decide +kernel
/-- F-25: the AM cascade. -/
theorem test_procAm_cascade :
    framesOf (procWith cfgT .am 1 { base (1 / 8) (1 / 4) 0 0 with
      mx := .replicate (.val (1 / 2)), modindex := .val 1 }) =
      some [(0, 3599 / 14580), (1, 3599 / 14580)] := by decide +kernel
/-- F-2, F-4, F-12, F-19 to F-23. -/
theorem test_proc_faults :
    [procWith cfgT .fm 1 (base 0 (1 / 4) 2 0), procWith cfgT .fm 1 (base (3 / 4) (1 / 4) (5 / 4) 0),
      procWith cfgT .am 1 (base 0 (-1 / 64) 0 0),
      procWith cfgT .fm 1 { base 0 (1 / 4) 0 0 with decimate := 0, bitcrush := 0 },
      procWith cfgT .fm 1 { base 0 (1 / 4) 0 0 with bitcrush := -1 },
      procWith cfgT .fm 1 { base 0 (1 / 4) 0 0 with drive := 0 },
      procWith cfgT .fm 65 (base 0 (1 / 4) 0 0)].map faultOf =
      [some (.phaseRange 0), some (.phaseRange 0), some (.phaseRange 0), some (.decimateLevel 0),
       some (.bitcrushLevel 0), some (.driveZero 0), some (.fbRange 0)] := by decide +kernel
/-- W-3, W-6, W-8, W-10, W-14, W-18. -/
theorem test_stages :
    [decimator (3 / 2) (3 / 4), quarterOffset (3 / 4), wave cfgT (15 / 16), bitDepth 4 (-3 / 10),
      softClip cfgT (-1) (1 / 2), smooth (1 / 10) (30 / 31)] =
      [2 / 3, 0, -1 / 4, -1 / 4, 2 / 3, 579 / 3100] := by decide +kernel

/-! Faults of unwritten registers, the fetch, the step. -/

/-- E-8, D-24, D-21 on the machine itself. -/
theorem test_unwritten_reads :
    [exec (.freqFree 60 12 0) State.reset, exec (.freqRational 16777215 (3 / 2) 60) State.reset].map faultOf =
      [some (.unwrittenRead 0), some (.unwrittenRead 0)] := by decide +kernel
/-- D-18's first step, then its second. -/
theorem test_step_moves_on :
    after (step { start with cs := [0x10000001#32, 0x10000000#32], cp := 1, freeze := .val true }) =
      some { start with cs := [0x10000001#32, 0x10000000#32], cp := 2, freeze := .val false } := by decide +kernel
/-- D-1: the empty stream is finished and nothing changes. -/
theorem test_step_empty_stream : after (step start) = some start := by decide +kernel
theorem test_step_decode_fault : faultOf (step { start with cs := [0x11000000#32] }) = some (.truncatedCommand 0) := by
  decide +kernel
theorem test_withFetchWord :
    (after (step (State.withFetchWord { start with cs := [0x01000000#32, 0x01000000#32], cp := 1 } 32 0x10000001))).map
      (fun t => (t.freeze, t.cp, t.cs.length)) = some (.val true, 2, 6) := by decide +kernel
/-- D-19 on the machine itself. -/
theorem test_empty_block_after_reset :
    (after (step (State.reset.withFetchWord 32 0x40000000))).map (fun t => t.cp) = some 1 := by decide +kernel

/-! The frame buffer. -/

theorem test_memory_write_keeps_order :
    Memory.write (Memory.write [(2, 5), (7, 1)] 4 9) 2 0 = [(2, 0), (4, 9), (7, 1)] := by decide +kernel

/-! The assembler (R83, R84, R85). -/

theorem test_assemble_rational :
    Assembler.assemble "FREQ_RATIONAL #8, 1.5, 60 ; tuned".toList =
      some [0x22000008#32, 0x3FC00000#32, 0x42700000#32] := by decide +kernel
theorem test_assemble_pseudo :
    Assembler.assemble "FREEZE\nPROC AM, #2\n; nothing\nSET_FEEDBACK -1/2".toList =
      some [0x10000001#32, 0x41000002#32, 0x11000000#32, 0xBF000000#32] := by decide +kernel
theorem test_assemble_refuses_third : Assembler.assemble "SET_MODINDEX 1/3".toList = none := by decide +kernel

/-! The fixture is a legal configuration in every bound a kernel can check. -/

theorem test_fixture_tables :
    ((List.range 4).all (fun k => decide (0 ≤ cfgT.rcosRom k ∧ cfgT.rcosRom k ≤ 1)) &&
      (List.range 48).all (fun a => decide (0 ≤ cfgT.structRom a ∧ cfgT.structRom a ≤ 1)) &&
      (List.range 11).all (fun r => (List.range 5).all (fun j =>
        decide (cfgT.chordRom (6 * r + j) ≤ cfgT.chordRom (6 * r + j + 1))))) = true := by decide +kernel

end Sys2Proof.Tests
end

