-- ==== Sys2Proof/Tests/Witnesses.lean ====
section
/-! SUPPORT. For every statement with hypotheses, a concrete state and operands that meet all of them together: witness_<Name>, one clause
each where the statement has several. -/

namespace Sys2Proof.Tests

open Sys2Proof.Machine

theorem decode_of_decoded {ws : List Word} {x : Instr × List Word} (h : decoded ws = some x) : decode ws = .ok x := by
  unfold decoded at h
  split at h
  · simp_all
  · simp at h

theorem decode_error_of {ws : List Word} {e : DecodeError} (h : decodeFaultOf ws = some e) : decode ws = .error e := by
  unfold decodeFaultOf at h
  split at h
  · simp at h
  · simp_all

/-! A state two frames of silence can be processed in, whatever the configuration: the input cancels `FB_OFFSET`. -/

def frameState : State :=
  { State.reset with
    inc := .replicate (.val 0), mx := .replicate (.val 0), feedback := .val 0, modindex := .val 0
    bitcrush := 1, decimate := 1, drive := 1
    frames := [(0, -Config.cfg.fbOffset), (1, -Config.cfg.fbOffset), (2, -Config.cfg.fbOffset),
      (3, -Config.cfg.fbOffset)] }

def frameParams : Params := ⟨.replicate 0, .replicate 0, 0, 0, 1, 1, 1⟩

def frameInp : Rails := ⟨-Config.cfg.fbOffset, -Config.cfg.fbOffset⟩

theorem frame_of : frameParams.Of frameState := by
  constructor <;> simp [frameParams, frameState]

theorem frame_levels : frameParams.LevelsLegal := by
  simp [Params.LevelsLegal, frameParams]

theorem frame_increments : frameParams.IncrementsBounded := by
  simp [Params.IncrementsBounded, frameParams]

theorem frame_phases : frameState.PhaseInRange := by
  simp [State.PhaseInRange, frameState]

theorem frame_matrix : frameState.MatrixWhole := by
  right
  simp [frameState]

theorem frame_count : 1 ≤ Config.cfg.fbFrames := Laws.Config.cfg_legal.fbFrames_pos

theorem frame_input (k : Nat) (h : k < 2) : frameInput frameState.frames k = frameInp := by
  have : k = 0 ∨ k = 1 := by omega
  rcases this with rfl | rfl <;> simp [frameInput, fbRead, frameState, frameInp, Memory.read, Memory.cell]

theorem frame_sum (i : Fin 6) (x : Chain) (r : Rail) (h : x.ph.get i = 0) :
    phaseSum Config.cfg frameParams frameInp i x r = 0 := by
  cases r <;> simp [phaseSum, h, frameInp, Rails.get, frameParams]

theorem frame_next (mode : Mode) (i j : Fin 6) (x : Chain) (h : ∀ i, x.ph.get i = 0) :
    (plainVoice Config.cfg mode frameParams frameInp i x).ph.get j = 0 := by
  simp [plainVoice, voiceUpdate, advancePhase, frameParams, h]

theorem frame_voices (mode : Mode) (l : List (Fin 6)) (x : Chain) (h : ∀ i, x.ph.get i = 0) :
    ∃ y, runVoices Config.cfg 0 mode frameParams frameInp l x = .ok y := by
  induction l generalizing x with
  | nil => exact ⟨x, rfl⟩
  | cons i is ih =>
    have hr : ∀ r, ∃ q, railPhase Config.cfg 0 mode frameParams frameInp i x r = .ok q := by
      intro r
      cases mode with
      | am => exact ⟨_, rfl⟩
      | fm =>
        refine ⟨0, checkPhase_ok.mpr ?_⟩
        rw [frame_sum i x r (h i)]
        norm_num [wrapOnce]
    have hv : runVoice Config.cfg 0 mode frameParams frameInp i x =
        .ok (plainVoice Config.cfg mode frameParams frameInp i x) := by
      refine runVoice_ok.mpr ⟨hr .left, hr .right, ?_, ?_, rfl⟩ <;> norm_num [advancePhase, frameParams, h]
    rw [runVoices, hv]
    exact ih _ fun j => frame_next mode i j x h

/-- A voice of silence at phase 0 runs, and leaves every phase 0. -/
theorem frame_phase (mode : Mode) (l : List (Fin 6)) (x y : Chain) (h : ∀ i, x.ph.get i = 0)
    (hy : runVoices Config.cfg 0 mode frameParams frameInp l x = .ok y) (i : Fin 6) : y.ph.get i = 0 := by
  rw [runVoices_ok hy]
  clear hy
  induction l generalizing x with
  | nil => exact h i
  | cons j js ih => exact ih _ fun n => frame_next mode j n x h

/-- Silent frames run: `n` of them from frame `k`, while the input pairs from there to frame 1 are silence. -/
theorem frames_answer (mode : Mode) (n k : Nat) (hk : k + n ≤ 2) (b : Block) (h : ∀ i, b.ph.get i = 0)
    (hf : ∀ m, k ≤ m → m < 2 → frameInput b.frames m = frameInp) :
    ∃ z, runFrames Config.cfg 0 mode frameParams n k b = .ok z := by
  induction n generalizing k b with
  | zero => exact ⟨b, rfl⟩
  | succ n ih =>
    obtain ⟨x, hx⟩ := frame_voices mode ascending (frameStart b) h
    have hr : ∃ z, runFrame Config.cfg 0 mode frameParams k b = .ok z :=
      ⟨_, bind_ok.mpr ⟨x, by rw [hf k (le_refl _) (by omega)]; exact hx, rfl⟩⟩
    obtain ⟨z, hz⟩ := hr
    have hb := hz
    unfold runFrame at hb
    rw [hf k (le_refl _) (by omega)] at hb
    obtain ⟨y, hy, hb⟩ := bind_ok.mp hb
    cases hb
    rw [runFrames, hz]
    refine ih (k + 1) (by omega) _ (frame_phase mode ascending _ y h hy) fun m hm hm2 => ?_
    rw [← hf m (by omega) hm2]
    simp only [frameInput, fbRead, fbWrite, frameCell_left, frameCell_right, Memory.read_write]
    congr 1 <;> rw [if_neg (by omega), if_neg (by omega)]

theorem frames_run (mode : Mode) (count : Nat) (h1 : 1 ≤ count) (h2 : count ≤ 2) (hc : count ≤ Config.cfg.fbFrames) :
    ∃ t, procWith Config.cfg mode count frameState = .next t := by
  obtain ⟨z, hz⟩ := frames_answer mode count 0 (by omega) frameState.block (by simp [State.block, frameState])
    fun m _ hm => frame_input m hm
  rw [procWith_checked frame_of frame_levels h1 hc]
  have hz' : runFrames Config.cfg frameState.cp mode frameParams count 0 frameState.block = .ok z := hz
  rw [hz']
  exact ⟨_, rfl⟩

theorem frame_runs (mode : Mode) : ∃ t, procWith Config.cfg mode 1 frameState = .next t :=
  frames_run mode 1 (le_refl _) (by decide) frame_count

theorem frame_fm : ∃ t, exec (.procFm 1) frameState = .next t := frame_runs .fm

theorem frame_am : ∃ t, exec (.procAm 1) frameState = .next t := frame_runs .am

theorem frame_sums (l : List (Fin 6)) (x : Chain) (h : ∀ i, x.ph.get i = 0) :
    ∀ q ∈ voiceSums Config.cfg frameParams frameInp l x, q = 0 := by
  induction l generalizing x with
  | nil => simp [voiceSums]
  | cons i is ih =>
    intro q hq
    rw [voiceSums, List.mem_cons, List.mem_cons] at hq
    rcases hq with rfl | rfl | hq
    · exact frame_sum i x .left (h i)
    · exact frame_sum i x .right (h i)
    · exact ih _ (fun j => frame_next .fm i j x h) q hq

theorem frame_bounded : FmInputBounded Config.cfg frameParams 1 frameState := by
  intro q hq
  rw [blockSums, blockSums, List.append_nil,
    show frameInput frameState.block.frames 0 = frameInp from frame_input 0 (by decide)] at hq
  rw [frame_sums ascending _ (by simp [frameStart, State.block, frameState]) q hq]
  norm_num

/-! The same state with a left input that takes voice 0's phase sum to 2. -/

def loudState : State := { frameState with frames := [(0, 2 - Config.cfg.fbOffset), (1, -Config.cfg.fbOffset)] }

theorem loud_of : frameParams.Of loudState := by
  constructor <;> simp [frameParams, loudState, frameState]

theorem loud_not_bounded : ¬FmInputBounded Config.cfg frameParams 1 loudState := by
  intro h
  have hm : (2 : V) ∈ blockSums Config.cfg frameParams 1 0 loudState.block := by
    rw [blockSums, ascending, voiceSums]
    have hs : phaseSum Config.cfg frameParams (frameInput loudState.block.frames 0) 0 (frameStart loudState.block) .left =
        2 := by
      simp [phaseSum, frameInput, fbRead, loudState, frameState, frameStart, State.block, Memory.read, Memory.cell,
        Rails.get, frameParams]
    rw [hs]
    simp
  exact absurd (h 2 hm).2 (by norm_num)

/-! The witnesses. -/

theorem witness_SpecWordsDecode : decode [0x41000003#32] = .ok (.procAm 3, []) ∧ encode (.procAm 3) = [0x41000003#32] :=
  ⟨decode_of_decoded (by decide +kernel), by decide +kernel⟩

theorem witness_DecodeOfEncodeIsTheCommand :
    (Instr.freqChord 72 7 0 (1 / 8)).wellFormed = true ∧ (Instr.procFm 16777215).wellFormed = true := by decide +kernel

theorem witness_EncodeOfDecodeIsTheWords :
    decode [0x11000000#32, 0x00000001#32] = .ok (.setFeedback (1 / 2 ^ 149), []) ∧
      0x80000000#32 ∉ [0x11000000#32, 0x00000001#32].take (Instr.setFeedback (1 / 2 ^ 149)).words :=
  ⟨decode_of_decoded (by decide +kernel), by decide +kernel⟩

theorem witness_DecodedCommandsAreWellFormed : decode [0x22FFFFFF#32, 0x3FC00000#32, 0x42700000#32] =
    .ok (.freqRational 16777215 (3 / 2) 60, []) := decode_of_decoded (by decide +kernel)

/-- A legal header without its operand, and with an operand of exponent 255. -/
theorem witness_EachBadEncodingHasItsDecodeFault :
    opField 0x11000000#32 = Opcode.setFeedback.code ∧ immField 0x11000000#32 = 0 ∧
      decode [0x11000000#32] = .error .truncatedCommand ∧ decode [0x11000000#32, 0x7F800000#32] = .error .illegalOperand :=
  ⟨by decide, by decide, decode_error_of (by decide +kernel), decode_error_of (by decide +kernel)⟩

/-- Exponent 255, exponent 0, exponent 254. -/
theorem witness_OperandWordsHaveTheirExactValue :
    (0x7F800000#32 : Word).extractLsb' 23 8 = 255#8 ∧ (0x007FFFFF#32 : Word).extractLsb' 23 8 = 0#8 ∧
      (0x7F7FFFFF#32 : Word).extractLsb' 23 8 = 254#8 := by decide

theorem witness_StepRunsTheCommandAtTheCursor :
    decode (({ start with cs := [0x01000000#32, 0x41000003#32], cp := 1 } : State).cs.drop 1) = .ok (.procAm 3, []) :=
  decode_of_decoded (by decide +kernel)

theorem witness_StepRunsTheCommandAtTheCursor_fault :
    decode (({ start with cs := [0x00000000#32] } : State).cs.drop 0) = .error .illegalCommand :=
  decode_error_of (by decide +kernel)

theorem witness_StepRunsTheCommandAtTheCursor_end : State.reset.cp = State.reset.cs.length := rfl

theorem witness_EveryCommandMovesTheCursorByItsLength : ∃ t, exec (.setDrive 0) State.reset = .next t := ⟨_, rfl⟩

theorem witness_FaultsAreThoseOfTheTable :
    exec (.freqFree 60 12 0) State.reset = .fault (.unwrittenRead 0) ∧
      step { start with cs := [0x00000000#32] } = .fault (.illegalCommand 0) := by
  refine ⟨rfl, ?_⟩
  have h : decode [0x00000000#32] = .error .illegalCommand := decode_error_of (by decide +kernel)
  simp [step, fetch, start, State.powerOn, h, decodeFault]

theorem witness_OnlyListedCommandsChangeEachRegister :
    ∃ t, exec (.setFreeze true) State.reset = .next t ∧ t.freeze ≠ State.reset.freeze :=
  ⟨_, rfl, by simp [State.setFreeze, State.advance]⟩

theorem witness_ResetLeavesTheStatedValues : ∃ t, exec .init State.reset = .next t := ⟨_, rfl⟩

/-- Cell 0 is written, cell 1 is not. -/
theorem witness_UnwrittenFrameCellsHoldTheirFreeValue :
    State.reset.frames.read 1 = Config.fbPowerOn 1 ∧ 0 ≠ 1 ∧ ∃ t, State.reset.hostWrite 0 5 = some t := by
  refine ⟨rfl, by decide, _, if_pos ?_⟩
  have := frame_count
  show 0 < 2 * Config.cfg.fbFrames
  omega

theorem witness_SettersStructureAndEmptyBlocksWorkAfterReset : (0 : V) ≤ 0 ∧ (16777215 / 16777216 : V) < 1 := by
  norm_num

theorem witness_UnwrittenRegistersFaultAfterReset :
    isFrequency (.freqChord 0 0 0 0) = true ∧ frameCount (.procAm 1) = some 1 ∧ 1 ≤ Config.cfg.fbFrames :=
  ⟨rfl, rfl, frame_count⟩

theorem witness_ParameterCommandsFrame :
    (∃ t, exec .init State.reset = .next t) ∧ ∃ t, exec (.setDecimate (-1)) State.reset = .next t := ⟨⟨_, rfl⟩, ⟨_, rfl⟩⟩

/-! Frequency commands at reset with FREEZE written. -/

def gated (b : Bool) : State := { State.reset with freeze := .val b }

theorem freqFree_runs (b : Bool) : ∃ t, exec (.freqFree 60 12 0) (gated b) = .next t :=
  ⟨_, finish_next.mpr ⟨_, bind_ok.mpr ⟨b, rfl, bind_ok.mpr ⟨_, assignVoices_pure b _ _, rfl⟩⟩, rfl⟩⟩

theorem chordIndex_zero : ⌊(0 : V) * 12⌋ = 0 := by norm_num

theorem chordIndex_ten : ⌊(10 / 12 : V) * 12⌋ = 10 := by norm_num

theorem freqChord_runs (b : Bool) : ∃ t, exec (.freqChord 60 7 0 0) (gated b) = .next t := by
  have hc : checkChord (gated b).cp 0 = .ok 0 := by
    have h0 : chordIndex 0 = 0 := chordIndex_zero
    simp [checkChord, h0]
  exact ⟨_, finish_next.mpr ⟨_, bind_ok.mpr ⟨b, rfl, bind_ok.mpr ⟨0, hc, bind_ok.mpr ⟨_, assignVoices_pure b _ _, rfl⟩⟩⟩, rfl⟩⟩

theorem freqHarmonic_faults :
    exec (.freqHarmonic 1 1 60 (-1)) (gated true) = .fault (.sqrtDomain 0) := by
  have h : detuneRadicand 1 (-1) 5 < 0 := by norm_num [detuneRadicand]
  simp [exec, execFreqHarmonic, freqHarmonicWith, gated, descending, assignVoices, harmonicVoice, checkSqrt, h, raise,
    bind, Except.bind, Except.map, finish]

theorem witness_FreezeGatesTheEvenVoices :
    isFrequency (.freqFree 60 12 0) = true ∧ State.reset.freeze = .undef ∧ (gated true).freeze = .val true ∧
      (gated false).freeze = .val false ∧ (∃ t, exec (.freqFree 60 12 0) (gated true) = .next t) ∧
      (∃ t, exec (.freqFree 60 12 0) (gated false) = .next t) ∧
      exec (.freqHarmonic 1 1 60 (-1)) (gated true) = .fault (.sqrtDomain 0) :=
  ⟨rfl, rfl, rfl, rfl, freqFree_runs true, freqFree_runs false, freqHarmonic_faults⟩

theorem witness_FreqFreeWritesItsIncrements : (gated false).freeze = .val false := rfl

/-- The first and the last chord row. -/
theorem witness_FreqChordWritesItsIncrements :
    (gated true).freeze = .val true ∧ 0 ≤ ⌊(0 : V) * 12⌋ ∧ ⌊(0 : V) * 12⌋ ≤ 10 ∧ 0 ≤ ⌊(10 / 12 : V) * 12⌋ ∧
      ⌊(10 / 12 : V) * 12⌋ ≤ 10 := by
  rw [chordIndex_zero, chordIndex_ten]
  exact ⟨rfl, by decide⟩

theorem witness_FreqRationalWritesItsIncrements :
    (gated false).freeze = .val false ∧ (1 : Nat) ≠ 0 ∧ (0 : V) < 1 / 2 ^ 149 := ⟨rfl, by decide, by norm_num⟩

/-- A radicand of exactly 0 at voice 5. -/
theorem witness_FreqHarmonicWritesItsIncrements :
    (gated false).freeze = .val false ∧
      ∀ i : Fin 6, candidate false i = true → (0 : V) ≤ 1 + (-1 / 25) * ((i.val : V) * 1) ^ 2 := by
  refine ⟨rfl, fun i _ => ?_⟩
  fin_cases i <;> norm_num

theorem witness_FrequencyCommandsFaultOnTheirOperands :
    (gated false).freeze = .val false ∧ 10 < ⌊(11 / 12 : V) * 12⌋ ∧ ⌊(-1 / 16 : V) * 12⌋ < 0 ∧ (0 : V) ≤ 0 ∧
      candidate true 5 = true ∧ 1 + (-1 : V) * (((5 : Fin 6).val : V) * 1) ^ 2 < 0 := by
  refine ⟨rfl, ?_, ?_, le_refl _, rfl, ?_⟩ <;> norm_num

theorem witness_FrequencyCommandsFrame :
    isFrequency (.freqChord 60 7 0 0) = true ∧ ∃ t, exec (.freqChord 60 7 0 0) (gated true) = .next t :=
  ⟨rfl, freqChord_runs true⟩

theorem witness_RepeatingAFrequencyCommandChangesNothing :
    isFrequency (.freqFree 60 12 0) = true ∧ ∃ t, exec (.freqFree 60 12 0) (gated true) = .next t :=
  ⟨rfl, freqFree_runs true⟩

/-- Two states that share FREEZE and differ in an increment. -/
theorem witness_FrequencyCommandsReadOnlyFreeze :
    isFrequency (.freqFree 60 12 0) = true ∧
      ({ gated false with drive := 3, cp := 7, inc := .replicate (.val 1) } : State).freeze = (gated false).freeze ∧
      ({ gated false with drive := 3, cp := 7, inc := .replicate (.val 1) } : State).inc ≠ (gated false).inc ∧
      ∃ t, exec (.freqFree 60 12 0) (gated false) = .next t :=
  ⟨rfl, rfl, by simp [gated, State.reset, State.powerOn, Six.replicate], freqFree_runs false⟩

theorem witness_WrittenIncrementsAreNotNegative :
    isFrequency (.freqFree 60 12 0) = true ∧ ∃ t v, exec (.freqFree 60 12 0) (gated false) = .next t ∧
      t.inc.get 0 = .val v ∧ t.inc.get 0 ≠ (gated false).inc.get 0 := by
  obtain ⟨t, ht⟩ := freqFree_runs false
  have hv : t.inc.get 0 = .val (freeIncrement Config.cfg 60 12 0 0) := by
    change freqFreeWith Config.cfg 60 12 0 (gated false) = _ at ht
    unfold freqFreeWith at ht
    obtain ⟨u, hu, rfl⟩ := finish_next.mp ht
    obtain ⟨fz, hz, hu⟩ := bind_ok.mp hu
    cases hz
    obtain ⟨x, hx, hu⟩ := bind_ok.mp hu
    cases hu
    exact assignVoices_ok hx 0
  exact ⟨rfl, t, _, ht, hv, by simp [hv, gated]⟩

theorem witness_ChordIncrementsStayInTheGuardBand : ∃ t, exec (.freqChord 60 7 0 0) (gated false) = .next t :=
  freqChord_runs false

theorem witness_NearestMinimisesTheDistance : ∀ j, j < 5 → chordRow cfgT 0 j ≤ chordRow cfgT 0 (j + 1) := by
  decide +kernel

theorem witness_BinarySearchIsTheNearestSearch :
    (∀ j, j < 5 → chordRow cfgT 1 j ≤ chordRow cfgT 1 (j + 1)) ∧ 3 ≤ 3 := by decide +kernel

theorem witness_RationalApproximationIsNearest : (0 : V) ≤ 1 / 4 ∧ (1 / 4 : V) < 1 ∧ 1 ≤ 2 := by norm_num

theorem witness_FoldingBringsARatioIntoOneToTwo : (0 : V) < 3 / 1024 := by norm_num

/-! The modulation router. -/

theorem setStructure_runs (k : Nat) (hk : k ≤ 6) : ∃ t, exec (.setStructure ((k : V) / 7)) State.reset = .next t := by
  have h6 : (k : V) ≤ 6 := by exact_mod_cast hk
  have h0 : (0 : V) ≤ k := Nat.cast_nonneg k
  have hs : checkStructure State.reset.cp ((k : V) / 7) = .ok () := by
    unfold checkStructure
    rw [if_neg]
    rw [not_or, not_lt, not_le]
    constructor <;> linarith
  exact ⟨_, finish_next.mpr ⟨_, bind_ok.mpr ⟨(), hs, rfl⟩, rfl⟩⟩

theorem witness_SetStructureInterpolatesTheMatrix :
    ((-1 / 8 : V) < 0 ∨ (1 : V) ≤ -1 / 8) ∧ ((1 : V) < 0 ∨ (1 : V) ≤ 1) ∧ (0 : V) ≤ 0 ∧ (16777215 / 16777216 : V) < 1 := by
  norm_num

theorem witness_StructureAtAPresetIsThePreset : 6 ≤ 6 ∧ ∃ t, exec (.setStructure (((6 : Nat) : V) / 7)) State.reset = .next t :=
  ⟨le_refl _, setStructure_runs 6 (le_refl _)⟩

theorem witness_MatrixCoefficientsAreInUnitRange :
    Config.cfg.Legal ∧ ∃ t, setStructureWith Config.cfg (((6 : Nat) : V) / 7) State.reset = .next t :=
  ⟨Laws.Config.cfg_legal, setStructure_runs 6 (le_refl _)⟩

theorem witness_StructureCommandFrame : ∃ t, exec (.setStructure (((3 : Nat) : V) / 7)) State.reset = .next t :=
  setStructure_runs 3 (by decide)

/-! The processing commands. -/

/-- Above the capacity, zero, and one frame in each mode. -/
theorem witness_FrameCountIsCheckedFirst :
    Config.cfg.fbFrames < 16777216 ∧ (∃ t, exec (.procFm 1) frameState = .next t) ∧
      ∃ t, exec (.procAm 1) frameState = .next t :=
  ⟨Laws.Config.cfg_legal.fbFrames_lt, frame_fm, frame_am⟩

theorem frame_has_values (s : State) (hi : s.inc = frameState.inc) (hm : s.mx = frameState.mx)
    (hf : s.feedback = .val 0) (hd : s.modindex = .val 0) : ¬s.LacksValue := by
  simp [State.LacksValue, hi, hm, hf, hd, frameState]

theorem witness_BlockChecksFaultInOrder :
    frameCount (.procFm 1) = some 1 ∧ 1 ≤ Config.cfg.fbFrames ∧ State.reset.LacksValue ∧
      (¬({ frameState with decimate := 0 } : State).LacksValue ∧ (0 : V) ≤ 0) ∧
      (¬({ frameState with bitcrush := 0 } : State).LacksValue ∧ (0 : V) < frameState.decimate ∧ (0 : V) ≤ 0) ∧
      (¬({ frameState with drive := 0 } : State).LacksValue ∧ (0 : V) < frameState.decimate ∧ (0 : V) < frameState.bitcrush ∧
        Config.cfg.sat 0 = 0) ∧ ∃ t, exec (.procFm 1) frameState = .next t :=
  ⟨rfl, frame_count, .inl ⟨0, rfl⟩, ⟨frame_has_values _ rfl rfl rfl rfl, le_refl _⟩,
    ⟨frame_has_values _ rfl rfl rfl rfl, zero_lt_one, le_refl _⟩,
    ⟨frame_has_values _ rfl rfl rfl rfl, zero_lt_one, zero_lt_one, (Laws.Config.cfg_legal.sat_zero 0).mpr rfl⟩, frame_fm⟩

/-! The same state with an increment of 2: the first advance leaves its range. -/

def fastParams : Params := { frameParams with inc := .replicate 2 }

def fastState : State := { frameState with inc := .replicate (.val 2) }

theorem fast_of : fastParams.Of fastState := by
  constructor <;> simp [fastParams, frameParams, fastState, frameState]

theorem fast_not_bounded : ¬AdvancesBounded fastParams 1 fastState := by
  intro h
  have h2 := (h 0 (by decide) 0).2
  simp [phaseAfter, fastParams, fastState, frameState] at h2

theorem frame_advances : AdvancesBounded frameParams 1 frameState := by
  intro k hk i
  obtain rfl : k = 0 := by omega
  simp [phaseAfter, frameParams, frameState]

theorem witness_ProcAmCompletesUnderItsContracts :
    (frameParams.Of frameState ∧ frameParams.LevelsLegal ∧ 1 ≤ Config.cfg.fbFrames ∧ frameParams.IncrementsBounded ∧
      frameState.PhaseInRange ∧ AdvancesBounded frameParams 1 frameState) ∧
    (fastParams.Of fastState ∧ fastParams.LevelsLegal ∧ ¬AdvancesBounded fastParams 1 fastState) :=
  ⟨⟨frame_of, frame_levels, frame_count, frame_increments, frame_phases, frame_advances⟩,
    fast_of, frame_levels, fast_not_bounded⟩

theorem witness_ProcFmCompletesExactlyUnderItsInputBound :
    (frameParams.Of frameState ∧ frameParams.LevelsLegal ∧ 1 ≤ Config.cfg.fbFrames ∧ frameParams.IncrementsBounded ∧
      frameState.PhaseInRange ∧ AdvancesBounded frameParams 1 frameState ∧
      FmInputBounded Config.cfg frameParams 1 frameState) ∧
    (frameParams.Of loudState ∧ ¬FmInputBounded Config.cfg frameParams 1 loudState) ∧
    (fastParams.Of fastState ∧ fastParams.LevelsLegal ∧ ¬AdvancesBounded fastParams 1 fastState) :=
  ⟨⟨frame_of, frame_levels, frame_count, frame_increments, frame_phases, frame_advances, frame_bounded⟩,
    ⟨loud_of, loud_not_bounded⟩, fast_of, frame_levels, fast_not_bounded⟩

/-- A block of one frame, and of two where the buffer has them. -/
theorem witness_FmFrameFollowsItsEquations :
    frameState.MatrixWhole ∧ frameParams.Of frameState ∧ (∃ t, exec (.procFm 1) frameState = .next t) ∧
      (2 ≤ Config.cfg.fbFrames → ∃ t, exec (.procFm 2) frameState = .next t) :=
  ⟨frame_matrix, frame_of, frame_fm, fun h => frames_run .fm 2 (by decide) (le_refl _) h⟩

theorem witness_AmFrameFollowsItsEquations :
    frameState.MatrixWhole ∧ frameParams.Of frameState ∧ (∃ t, exec (.procAm 1) frameState = .next t) ∧
      (2 ≤ Config.cfg.fbFrames → ∃ t, exec (.procAm 2) frameState = .next t) :=
  ⟨frame_matrix, frame_of, frame_am, fun h => frames_run .am 2 (by decide) (le_refl _) h⟩

/-- A level that is no integer, and a phase on its grid. -/
theorem witness_DecimatorRoundsThePhaseDown :
    (0 : V) < 3 / 2 ∧ (0 : V) ≤ 3 / 4 ∧ (3 / 4 : V) < 1 ∧ ∃ z : Int, (2 / 3 : V) * (3 / 2) = (z : V) :=
  ⟨by norm_num, by norm_num, by norm_num, 1, by norm_num⟩

theorem witness_BitDepthTruncatesTowardZero : (0 : V) < 4 := by norm_num

/-- The ends of each range. -/
theorem witness_PhaseWrapsByOneStepOrFaults :
    ((-1 : V) ≤ -1 ∧ (-1 : V) < 2) ∧ ((2 : V) < -1 ∨ (2 : V) ≤ 2) ∧ ((0 : V) ≤ 1 / 2 + 1 / 2 ∧ (1 / 2 : V) + 1 / 2 < 2) ∧
      ((0 : V) + -1 / 64 < 0 ∨ (2 : V) ≤ 0 + -1 / 64) := by norm_num

theorem witness_AllZeroMatrixMixesTheVoicesEqually :
    (∀ i, frameParams.mx.get i = 0) ∧ frameParams.Of frameState ∧ ∃ t, exec (.procFm 1) frameState = .next t :=
  ⟨by simp [frameParams], frame_of, frame_fm⟩

theorem witness_ProcessingCommandsFrame :
    frameCount (.procFm 1) = some 1 ∧ (∃ t, exec (.procFm 1) frameState = .next t) ∧ frameCount (.procAm 0) = some 0 ∧
      ∃ t, exec (.procAm 0) State.reset = .next t := ⟨rfl, frame_fm, rfl, ⟨_, rfl⟩⟩

/-- Cell 2, of frame 1, differs. -/
theorem witness_OutputFramesDependOnNoLaterInput :
    frameCount (.procAm 1) = some 1 ∧
      (∀ a, a < 2 * (0 + 1) → (frameState.frames.write 2 5).read a = frameState.frames.read a) ∧
      (∃ t, exec (.procAm 0) frameState = .next t) ∧
      ∃ t, exec (.procAm 0) { frameState with frames := frameState.frames.write 2 5 } = .next t := by
  refine ⟨rfl, fun a ha => ?_, ⟨_, rfl⟩, ⟨_, rfl⟩⟩
  rw [Memory.read_write, if_neg (by omega)]

theorem witness_ProcessingIgnoresFreeze :
    frameCount (.procFm 1) = some 1 ∧ ∃ t, exec (.procFm 1) frameState = .next t := ⟨rfl, frame_fm⟩

/-- The machine's configuration with another value in every cell just past each table's space. -/
def strayCfg : Config :=
  { Config.cfg with
    sineRom := fun a => if a < Config.cfg.sineSize then Config.cfg.sineRom a else Config.cfg.sineRom a + 1
    rcosRom := fun a => if a < Config.cfg.rcosSize + 1 then Config.cfg.rcosRom a else Config.cfg.rcosRom a + 1
    chordRom := fun a => if a < 66 then Config.cfg.chordRom a else Config.cfg.chordRom a + 1
    structRom := fun a => if a < 48 then Config.cfg.structRom a else Config.cfg.structRom a + 1 }

/-- The last chord row and the ends of the operand range are met too. -/
theorem witness_TableReadsStayInTheirSpace :
    Config.cfg.Legal ∧
      strayCfg = { Config.cfg with
        sineRom := strayCfg.sineRom, rcosRom := strayCfg.rcosRom, chordRom := strayCfg.chordRom
        structRom := strayCfg.structRom } ∧
      (∀ space a, a < romCells Config.cfg space → romRead strayCfg space a = romRead Config.cfg space a) ∧
      strayCfg.structRom 48 ≠ Config.cfg.structRom 48 ∧ checkChord 0 (10 / 12) = .ok 10 ∧ (0 : V) ≤ 0 ∧
      (16777215 / 16777216 : V) < 1 := by
  refine ⟨Laws.Config.cfg_legal, rfl, fun space a h => ?_, by simp [strayCfg], ?_, le_refl _, by norm_num⟩
  · cases space <;> exact if_pos h
  · have h10 : chordIndex (10 / 12) = 10 := chordIndex_ten
    simp [checkChord, h10]

theorem witness_NoFrameDividesByZero :
    (∀ i, 0 ≤ frameParams.mx.get i ∧ frameParams.mx.get i ≤ 1) ∧ frameCount (.procFm 1) = some 1 ∧
      frameState.MatrixWhole ∧ frameParams.Of frameState ∧ ∃ t, exec (.procFm 1) frameState = .next t :=
  ⟨by simp [frameParams], rfl, frame_matrix, frame_of, frame_fm⟩

/-! Invariants, the host's moves, runs. -/

theorem frame_inv : ({ frameState with frames := [(0, 0), (1, 0)], cs := [0x40000001#32] } : State).Inv where
  phase := frame_phases
  matrix := frame_matrix
  frames := by
    have := frame_count
    refine ⟨rfl, ?_⟩
    have h0 : decide (0 < fbCells Config.cfg) = true := decide_eq_true (by unfold fbCells; omega)
    have h1 : decide (1 < fbCells Config.cfg) = true := decide_eq_true (by unfold fbCells; omega)
    show (decide _ && (decide _ && true)) = true
    rw [h0, h1]
    rfl
  cursor := Nat.zero_le _

theorem witness_EveryStepKeepsTheInvariant :
    ({ frameState with frames := [(0, 0), (1, 0)], cs := [0x40000001#32] } : State).Inv ∧
      ∃ t, step { frameState with cs := [0x40000000#32] } = .next t := by
  have h : decode [0x40000000#32] = .ok (.procFm 0, []) := decode_of_decoded (by decide +kernel)
  refine ⟨frame_inv, ?_⟩
  simp [step, fetch, frameState, State.reset, State.powerOn, h, exec, execProcFm, procWith, checkCount, bind, Except.bind,
    pure, Except.pure]

theorem witness_PhaseStaysInUnitRange :
    frameState.PhaseInRange ∧ ∃ t, step { frameState with cs := [0x40000000#32] } = .next t :=
  ⟨frame_phases, witness_EveryStepKeepsTheInvariant.2⟩

theorem witness_HostMovesKeepTheInvariant :
    ({ frameState with frames := [(0, 0), (1, 0)], cs := [0x40000001#32] } : State).Inv ∧
      ∃ t, State.hostWrite { frameState with frames := [(0, 0), (1, 0)], cs := [0x40000001#32] } 1 7 = some t := by
  refine ⟨frame_inv, _, if_pos ?_⟩
  have := frame_count
  show 1 < 2 * Config.cfg.fbFrames
  omega

theorem witness_EveryRunEnds : ({ start with cs := [0x10000001#32] } : State).CursorInStream := Nat.zero_le _

theorem witness_PlacedWordsAreFetchedNext : decodeTableWord 32 0x20000000 = some (.freqFree 0 0 0) := by decide +kernel

end Sys2Proof.Tests
end

section
/-! PROOFS. What a frequency command computes for a voice, and the sign of the increments it writes (R16, R122, R123, R234). -/

namespace Sys2Proof.Machine

/-! The four frequency commands as one: an operand check and an increment per voice. -/

/-- The operand check a frequency command makes before its first voice (R107, R119). -/
def frequencyCheck (cp : Nat) : Instr → Except Fault Unit
  | .freqChord _ _ _ chord => (checkChord cp chord).map fun _ => ()
  | .freqRational n spread _ => checkRational cp n spread
  | _ => .ok ()

/-- What a frequency command computes for a voice (R104, R112, R119, R123), none for the other commands. -/
def voiceIncrement (c : Config) (cp : Nat) : Instr → Fin 6 → Except Fault (Option V)
  | .freqFree note spread fine, j => .ok (some (freeIncrement c note spread fine j))
  | .freqChord note spread fine chord, j => .ok (chordIncrement c (chordIndex chord).toNat note spread fine j)
  | .freqRational n spread fine, j => .ok (some (rationalIncrement c n spread fine j))
  | .freqHarmonic base spread fine detune, j => (harmonicVoice c cp base spread fine detune j).map some
  | _, _ => .ok none

/-- The row a chord operand selects is its index (R107). -/
theorem eq_chordIndex_of_checkChord {cp row : Nat} {chord : V} (h : checkChord cp chord = .ok row) :
    row = (chordIndex chord).toNat := by
  unfold checkChord raise at h
  split_ifs at h
  exact (Except.ok.inj h).symm

/-- The one shape of the four commands: FREEZE, the operand check, the traversal (R100, R101). -/
theorem exec_frequency {i : Instr} (hi : isFrequency i = true) (s : State) :
    exec i s = finish i.words (do
      let fz ← need s.cp s.freeze
      let _ ← frequencyCheck s.cp i
      let x ← assignVoices fz (voiceIncrement Config.cfg s.cp i) descending s.inc
      return s.setInc x) := by
  cases i with
  | freqFree note spread fine => rfl
  | freqRational n spread fine => rfl
  | freqHarmonic base spread fine detune => rfl
  | freqChord note spread fine chord =>
    simp only [exec, execFreqChord, freqChordWith, frequencyCheck]
    cases hk : checkChord s.cp chord with
    | error e => rfl
    | ok row =>
      obtain rfl := eq_chordIndex_of_checkChord hk
      rfl
  | _ => cases hi

/-- When a frequency command answers a next state, and which. -/
theorem exec_frequency_next {i : Instr} (hi : isFrequency i = true) {s t : State} :
    exec i s = .next t ↔ ∃ fz x, s.freeze = .val fz ∧ frequencyCheck s.cp i = .ok () ∧
      assignVoices fz (voiceIncrement Config.cfg s.cp i) descending s.inc = .ok x ∧
      t = (s.setInc x).advance i.words := by
  rw [exec_frequency hi, finish_next]
  constructor
  · rintro ⟨u, hu, rfl⟩
    obtain ⟨fz, hz, hu⟩ := bind_ok.mp hu
    obtain ⟨_, hc, hu⟩ := bind_ok.mp hu
    obtain ⟨x, hx, hu⟩ := bind_ok.mp hu
    cases hu
    exact ⟨fz, x, need_ok.mp hz, hc, hx, rfl⟩
  · rintro ⟨fz, x, hz, hc, hx, rfl⟩
    exact ⟨_, bind_ok.mpr ⟨fz, need_ok.mpr hz, bind_ok.mpr ⟨(), hc, bind_ok.mpr ⟨x, hx, rfl⟩⟩⟩, rfl⟩

/-- A traversal that changes a voice's increment writes what it computed for that voice. -/
theorem eq_of_assigned_ne {fz : Bool} {f : Fin 6 → Except Fault (Option V)} {x : Six (Reg V)} {j : Fin 6} {v : V}
    (hne : assigned fz f x j ≠ x.get j) (hv : assigned fz f x j = .val v) : f j = .ok (some v) := by
  unfold assigned at hne hv
  split at hv
  · simp_all
  · cases hf : f j with
    | error e => simp_all
    | ok o => cases o <;> simp_all

/-- An increment that a frequency command changed holds what the command computes for that voice. -/
theorem voiceIncrement_of_changed {i : Instr} {s t : State} {j : Fin 6} {v : V} (hi : isFrequency i = true)
    (h : exec i s = .next t) (hne : t.inc.get j ≠ s.inc.get j) (hv : t.inc.get j = .val v) :
    voiceIncrement Config.cfg s.cp i j = .ok (some v) := by
  obtain ⟨fz, x, -, -, hx, rfl⟩ := (exec_frequency_next hi).mp h
  rw [State.advance_inc, State.setInc_inc, assignVoices_ok hx] at hne hv
  exact eq_of_assigned_ne hne hv

/-! The sign of each command's increment under a legal configuration. -/

/-- The fraction `p/q` is at least 0 for any naturals, so the ratio is at least a power of 2. -/
theorem approximatedRatio_pos (tie : RatTie) (n : Nat) (r : V) : 0 < approximatedRatio tie n r :=
  mul_pos (add_pos_of_pos_of_nonneg one_pos (div_nonneg (Nat.cast_nonneg _) (Nat.cast_nonneg _))) (pow2_pos _)

theorem checkSqrt_ok {c : Config} {cp : Nat} {y w : V} : checkSqrt c cp y = .ok w ↔ 0 ≤ y ∧ w = c.sqrt y := by
  unfold checkSqrt raise
  split_ifs with h
  · simp [h]
  · simp [not_lt.mp h, eq_comm]

/-- In the branch of a negative harmonic number both the dividend and the divisor are negative (R122). -/
theorem harmonicIncrement_nonneg {fund w : V} (hf : 0 ≤ fund) (hw : 0 ≤ w) (h : Int) : 0 ≤ harmonicIncrement fund h w := by
  unfold harmonicIncrement
  split_ifs with h0
  · exact mul_nonneg (mul_nonneg hf (Int.cast_nonneg h0)) hw
  · have hh : (h : V) < 0 := Int.cast_lt_zero.mpr (not_le.mp h0)
    exact mul_nonneg (div_nonneg_of_nonpos (by linarith) (by linarith)) hw

section
variable {c : Config} (hc : c.Legal)
include hc

theorem baseIncrement_pos (x : V) : 0 < baseIncrement c x := mul_pos (hc.fratio_pos _) hc.refFreq_pos

theorem freeIncrement_pos (note spread fine : V) (j : Fin 6) : 0 < freeIncrement c note spread fine j :=
  baseIncrement_pos hc _

theorem chordIncrement_pos {row : Nat} {note spread fine v : V} {j : Fin 6}
    (h : chordIncrement c row note spread fine j = some v) : 0 < v := by
  unfold chordIncrement at h
  split_ifs at h
  obtain rfl := Option.some.inj h
  exact mul_pos (hc.fratio_pos _) hc.refFreq_pos

theorem rationalIncrement_pos (n : Nat) (spread fine : V) (j : Fin 6) : 0 < rationalIncrement c n spread fine j :=
  mul_pos (baseIncrement_pos hc _) (approximatedRatio_pos ..)

theorem harmonicVoice_nonneg {cp : Nat} {base spread fine detune v : V} {j : Fin 6}
    (h : harmonicVoice c cp base spread fine detune j = .ok v) : 0 ≤ v := by
  obtain ⟨w, hw, hv⟩ := bind_ok.mp h
  obtain ⟨hy, rfl⟩ := checkSqrt_ok.mp hw
  cases hv
  exact harmonicIncrement_nonneg (baseIncrement_pos hc _).le (hc.sqrt_nonneg _ hy) _

/-- What a command computes for a voice is above 0, but FREQ_HARMONIC's only at least 0 (its harmonic number may be 0). -/
theorem voiceIncrement_sign {cp : Nat} {i : Instr} {j : Fin 6} {v : V} (h : voiceIncrement c cp i j = .ok (some v)) :
    0 ≤ v ∧ ((∃ base spread fine detune, i = .freqHarmonic base spread fine detune) ∨ 0 < v) := by
  cases i with
  | freqFree note spread fine =>
    cases h
    have hv := freeIncrement_pos hc note spread fine j
    exact ⟨hv.le, .inr hv⟩
  | freqChord note spread fine chord =>
    have hv := chordIncrement_pos hc (Except.ok.inj h)
    exact ⟨hv.le, .inr hv⟩
  | freqRational n spread fine =>
    cases h
    have hv := rationalIncrement_pos hc n spread fine j
    exact ⟨hv.le, .inr hv⟩
  | freqHarmonic base spread fine detune =>
    have hv : harmonicVoice c cp base spread fine detune j = .ok v := by
      cases hx : harmonicVoice c cp base spread fine detune j <;> simp_all [voiceIncrement, Except.map]
    exact ⟨harmonicVoice_nonneg hc hv, .inl ⟨_, _, _, _, rfl⟩⟩
  | _ => cases h

end

/-- Settles O28: a changed increment is what the command computed for that voice, and the signs of those values follow from
the legality of the configuration. -/
theorem writtenIncrementsAreNotNegative : Obligations.WrittenIncrementsAreNotNegative := by
  intro i s t j v hi h hne hv
  exact voiceIncrement_sign Laws.Config.cfg_legal (voiceIncrement_of_changed hi h hne hv)

end Sys2Proof.Machine
end

section
/-! PROOFS. The state over one command: what each can leave, said once, and the frames, reads and invariants that follow
(R23, R26, R30, R35 to R37, R100, R143, R151, R174, R175). -/

namespace Sys2Proof.Machine

/-! What a command that answers has done. -/

/-- A processing command is `procWith` in the mode of its opcode, and one word long (R150, R171, R172). -/
theorem exec_processing {i : Instr} {count : Nat} (hi : frameCount i = some count) :
    i.words = 1 ∧ ∃ mode, ∀ s, exec i s = procWith Config.cfg mode count s := by
  cases i with
  | procFm n => cases hi; exact ⟨rfl, .fm, fun _ => rfl⟩
  | procAm n => cases hi; exact ⟨rfl, .am, fun _ => rfl⟩
  | _ => cases hi

/-- An empty block does nothing in any state (R151). -/
theorem procWith_zero (c : Config) (mode : Mode) (s : State) : procWith c mode 0 s = .next (s.advance 1) := by
  have hc : checkCount c s.cp 0 = .ok () := if_neg (Nat.not_lt_zero _)
  rw [procWith, hc]
  rfl

/-- What a processing command of a non-empty block that answers read, and the frames it ran (R151 to R153). -/
theorem procWith_next_runs {mode : Mode} {count : Nat} {s t : State} (h : procWith Config.cfg mode count s = .next t)
    (h0 : count ≠ 0) :
    count ≤ Config.cfg.fbFrames ∧ ∃ p b, p.Of s ∧ p.LevelsLegal ∧
      runFrames Config.cfg s.cp mode p count 0 s.block = .ok b ∧ t = (s.setBlock b.ph b.fb b.frames).advance 1 := by
  obtain ⟨hn, hz | ⟨p, -, hp, hl, rfl⟩⟩ := procWith_next h
  · exact absurd hz.1 h0
  · rw [procWith_checked hp hl (Nat.pos_of_ne_zero h0) hn] at h
    cases hb : runFrames Config.cfg s.cp mode p count 0 s.block with
    | error f => simp [hb] at h
    | ok b => exact ⟨hn, p, b, hp, hl, hb, by rw [runFrames_ok hb]; rfl⟩

/-- SET_STRUCTURE answers for an operand in `[0,1)` only, and writes the matrix (R141, R143). -/
theorem exec_setStructure_next {value : V} {s t : State} (h : exec (.setStructure value) s = .next t) :
    0 ≤ value ∧ value < 1 ∧ t = (s.setMx (structureMatrix Config.cfg value)).advance 2 := by
  obtain ⟨u, hu, rfl⟩ := finish_next.mp h
  obtain ⟨_, hc, hu⟩ := bind_ok.mp hu
  cases hu
  unfold checkStructure raise at hc
  split_ifs at hc with hr
  rw [not_or, not_lt, not_le] at hr
  exact ⟨hr.1, hr.2, rfl⟩

/-- What the body of a command can make of a state it does not stop in, before the cursor moves: the write column of
R37 for every command. -/
inductive Leaves (s : State) : Instr → State → Prop
  | init : Leaves s .init (s.resetRegisters Config.cfg)
  | setFreeze (b : Bool) : Leaves s (.setFreeze b) (s.setFreeze b)
  | setFeedback (v : V) : Leaves s (.setFeedback v) (s.setFeedback v)
  | setModindex (v : V) : Leaves s (.setModindex v) (s.setModindex v)
  | setBitcrush (v : V) : Leaves s (.setBitcrush v) (s.setBitcrush v)
  | setDecimate (v : V) : Leaves s (.setDecimate v) (s.setDecimate v)
  | setDrive (v : V) : Leaves s (.setDrive v) (s.setDrive v)
  | frequency {i : Instr} (x : Six (Reg V)) (hi : isFrequency i = true) : Leaves s i (s.setInc x)
  | setStructure {v : V} (h0 : 0 ≤ v) (h1 : v < 1) :
    Leaves s (.setStructure v) (s.setMx (structureMatrix Config.cfg v))
  | emptyBlock {i : Instr} (hi : frameCount i = some 0) : Leaves s i s
  | block {i : Instr} {count : Nat} {mode : Mode} {p : Params} {b : Block} (hi : frameCount i = some count)
    (hn : count ≤ Config.cfg.fbFrames) (hp : p.Of s) (hl : p.LevelsLegal)
    (hb : runFrames Config.cfg s.cp mode p count 0 s.block = .ok b) :
    Leaves s i (s.setBlock b.ph b.fb b.frames)

/-- A processing command, whose block is empty or runs its frames (R151). -/
theorem processing_next {i : Instr} {count : Nat} (hi : frameCount i = some count) {s t : State}
    (h : exec i s = .next t) : ∃ u, Leaves s i u ∧ t = u.advance i.words := by
  obtain ⟨hw, mode, he⟩ := exec_processing hi
  rw [he] at h
  rw [hw]
  by_cases h0 : count = 0
  · subst h0
    rw [procWith_zero] at h
    exact ⟨s, .emptyBlock hi, (Host.Outcome.next.inj h).symm⟩
  · obtain ⟨hn, p, b, hp, hl, hb, rfl⟩ := procWith_next_runs h h0
    exact ⟨_, .block hi hn hp hl hb, rfl⟩

/-- A frequency command, which writes increments alone (R100). -/
theorem frequency_next {i : Instr} (hi : isFrequency i = true) {s t : State} (h : exec i s = .next t) :
    ∃ u, Leaves s i u ∧ t = u.advance i.words := by
  obtain ⟨_, x, -, -, -, rfl⟩ := (exec_frequency_next hi).mp h
  exact ⟨_, .frequency x hi, rfl⟩

/-- A command that answers leaves what its body does, with the cursor moved past its words (R72). -/
theorem exec_next {i : Instr} {s t : State} (h : exec i s = .next t) : ∃ u, Leaves s i u ∧ t = u.advance i.words := by
  cases i with
  | init => exact ⟨_, .init, (Host.Outcome.next.inj h).symm⟩
  | setFreeze b => exact ⟨_, .setFreeze b, (Host.Outcome.next.inj h).symm⟩
  | setFeedback v => exact ⟨_, .setFeedback v, (Host.Outcome.next.inj h).symm⟩
  | setModindex v => exact ⟨_, .setModindex v, (Host.Outcome.next.inj h).symm⟩
  | setBitcrush v => exact ⟨_, .setBitcrush v, (Host.Outcome.next.inj h).symm⟩
  | setDecimate v => exact ⟨_, .setDecimate v, (Host.Outcome.next.inj h).symm⟩
  | setDrive v => exact ⟨_, .setDrive v, (Host.Outcome.next.inj h).symm⟩
  | freqFree _ _ _ => exact frequency_next rfl h
  | freqChord _ _ _ _ => exact frequency_next rfl h
  | freqRational _ _ _ => exact frequency_next rfl h
  | freqHarmonic _ _ _ _ => exact frequency_next rfl h
  | setStructure v =>
    obtain ⟨h0, h1, rfl⟩ := exec_setStructure_next h
    exact ⟨_, .setStructure h0 h1, rfl⟩
  | procFm _ => exact processing_next rfl h
  | procAm _ => exact processing_next rfl h

/-- No body moves the cursor or writes the stream (R30, R65). -/
theorem Leaves.stream {s u : State} {i : Instr} (h : Leaves s i u) : u.cp = s.cp ∧ u.cs = s.cs := by
  cases h <;> exact ⟨rfl, rfl⟩

/-! A step: the command at the cursor, whose words the stream holds. -/

theorem opcode_instr (o : Opcode) (h : Word) (v : Nat → V) : (o.instr h v).opcode = o := by cases o <;> rfl

/-- A decoded command's words are in the list it was decoded from (R78). -/
theorem words_le_of_decode {ws rest : List Word} {i : Instr} (h : decode ws = .ok (i, rest)) : i.words ≤ ws.length := by
  cases ws with
  | nil => cases h
  | cons w ws =>
    unfold decode at h
    cases ho : selectOpcode w with
    | none => simp [ho] at h
    | some o =>
      simp only [ho] at h
      split_ifs at h with hl
      cases hv : values32 (ws.take o.format.operandWords) with
      | none => simp [hv] at h
      | some vs =>
        simp only [hv, Except.ok.injEq, Prod.mk.injEq] at h
        obtain ⟨rfl, -⟩ := h
        rw [Instr.words, opcode_instr, List.length_cons]
        omega

/-- A step that answers waits at the end of the stream or runs one command whose words the stream holds (R81, R252). -/
theorem step_next {s t : State} (h : step s = .next t) :
    t = s ∨ ∃ i u, Leaves s i u ∧ i.words ≤ s.cs.length - s.cp ∧ t = u.advance i.words := by
  unfold step fetch at h
  split_ifs at h with hend
  · exact .inl (Host.Outcome.next.inj h).symm
  · cases hd : decode (s.cs.drop s.cp) with
    | error e => simp [hd] at h
    | ok x =>
      obtain ⟨i, rest⟩ := x
      simp only [hd] at h
      obtain ⟨u, hu, rfl⟩ := exec_next h
      have hw := words_le_of_decode hd
      rw [List.length_drop] at hw
      exact .inr ⟨i, u, hu, hw, rfl⟩

/-! Phases over a block. -/

/-- Frames keep a property that each of them keeps. -/
theorem runFrames_keeps {P : Block → Prop} {c : Config} {cp : Nat} {mode : Mode} {p : Params} {n k : Nat} {b b' : Block}
    (hP : ∀ j x y, k ≤ j → j < k + n → runFrame c cp mode p j x = .ok y → P x → P y)
    (h : runFrames c cp mode p n k b = .ok b') (hb : P b) : P b' := by
  induction n generalizing k b with
  | zero => cases h; exact hb
  | succ n ih =>
    rw [runFrames] at h
    cases hf : runFrame c cp mode p k b with
    | error e => simp [hf] at h
    | ok y =>
      simp only [hf] at h
      exact ih (fun j x z hj hn => hP j x z (by omega) (by omega)) h (hP k b y le_rfl (by omega) hf hb)

/-- All six phases in `[0,1)` (R23). -/
def Six.InUnit (x : Six V) : Prop := ∀ i, 0 ≤ x.get i ∧ x.get i < 1

section
variable {c : Config} {cp : Nat} {mode : Mode} {p : Params}

/-- A voice that answers has passed the check of its advanced phase (R168). -/
theorem runVoice_inUnit {inp : Rails} {i : Fin 6} {x y : Chain} (h : runVoice c cp mode p inp i x = .ok y)
    (hx : x.ph.InUnit) : y.ph.InUnit := by
  obtain ⟨-, -, h0, h1, rfl⟩ := runVoice_ok.mp h
  intro j
  rw [plainVoice_ph]
  split_ifs
  · exact ⟨h0, h1⟩
  · exact hx j

theorem runVoices_inUnit {inp : Rails} {l : List (Fin 6)} {x y : Chain} (h : runVoices c cp mode p inp l x = .ok y)
    (hx : x.ph.InUnit) : y.ph.InUnit := by
  induction l generalizing x with
  | nil => cases h; exact hx
  | cons i is ih =>
    rw [runVoices] at h
    cases hv : runVoice c cp mode p inp i x with
    | error e => simp [hv] at h
    | ok z =>
      simp only [hv] at h
      exact ih h (runVoice_inUnit hv hx)

theorem runFrame_inUnit {k : Nat} {b b' : Block} (h : runFrame c cp mode p k b = .ok b') (hb : b.ph.InUnit) :
    b'.ph.InUnit := by
  obtain ⟨x, hx, hb'⟩ := bind_ok.mp h
  cases hb'
  exact runVoices_inUnit hx hb

/-! Memory over a block. -/

/-- A frame writes its own two cells and no other (R152). -/
theorem runFrame_read_other {k a : Nat} {b b' : Block} (h : runFrame c cp mode p k b = .ok b')
    (ha : ∀ r, a ≠ frameCell k r) : b'.frames.read a = b.frames.read a := by
  obtain rfl := runFrame_ok h
  simp only [plainFrame, fbWrite, Memory.read_write, if_neg (ha .left), if_neg (ha .right)]

end

/-- The frame buffer in canonical form and inside its space (R54). -/
def Memory.Canonical (m : Memory) : Prop := Memory.wf m = true ∧ Memory.below (fbCells Config.cfg) m = true

theorem fbWrite_canonical {m : Memory} {k : Nat} (hk : k < Config.cfg.fbFrames) (r : Rail) (v : V)
    (hm : Memory.Canonical m) : Memory.Canonical (fbWrite m k r v) := by
  have ha : frameCell k r < fbCells Config.cfg := by
    unfold fbCells
    cases r <;> simp only [frameCell_left, frameCell_right] <;> omega
  exact ⟨Memory.write_wf _ v hm.1, Memory.write_below ha hm.2⟩

/-! The range of the structure matrix under a legal configuration (R142 to R144). -/

/-- Linear interpolation between two values of `[0,1]` stays in `[0,1]`. -/
theorem interpolate_unit {a b g : V} (ha : 0 ≤ a ∧ a ≤ 1) (hb : 0 ≤ b ∧ b ≤ 1) (hg : 0 ≤ g ∧ g ≤ 1) :
    0 ≤ a + (b - a) * g ∧ a + (b - a) * g ≤ 1 := by
  have he : a + (b - a) * g = a * (1 - g) + b * g := by ring
  have hg' : 0 ≤ 1 - g := sub_nonneg.mpr hg.2
  rw [he]
  constructor
  · exact add_nonneg (mul_nonneg ha.1 hg') (mul_nonneg hb.1 hg.1)
  · calc a * (1 - g) + b * g ≤ 1 * (1 - g) + 1 * g :=
          add_le_add (mul_le_mul_of_nonneg_right ha.2 hg') (mul_le_mul_of_nonneg_right hb.2 hg.1)
      _ = 1 := by ring

theorem fraction_unit (x : V) : 0 ≤ x - (floorV x : V) ∧ x - (floorV x : V) < 1 :=
  ⟨sub_nonneg.mpr (floorV_le x), by linarith [lt_floorV_add_one x]⟩

theorem floorV_toNat_lt {x : V} {n : Nat} (h0 : 0 ≤ x) (h1 : x < n) : (floorV x).toNat < n :=
  (Int.toNat_lt (Int.floor_nonneg.mpr h0)).mpr (Int.floor_lt.mpr (by exact_mod_cast h1))

section
variable {c : Config} (hc : c.Legal)
include hc

theorem rcosWarp_unit {f : V} (h0 : 0 ≤ f) (h1 : f < 1) : 0 ≤ rcosWarp c f ∧ rcosWarp c f ≤ 1 := by
  have hs : (0 : V) < c.rcosSize := Nat.cast_pos.mpr hc.rcosSize_pos
  have hj : (floorV (f * c.rcosSize)).toNat < c.rcosSize :=
    floorV_toNat_lt (mul_nonneg h0 hs.le) (mul_lt_of_lt_one_left hs h1)
  have hg := fraction_unit (f * c.rcosSize)
  exact interpolate_unit (hc.rcos_unit _ (by omega)) (hc.rcos_unit _ (by omega)) ⟨hg.1, hg.2.le⟩

theorem matrixCoefficient_unit {k : Nat} {w : V} (hk : k < 7) (hw : 0 ≤ w ∧ w ≤ 1) (i : Fin 6) :
    0 ≤ matrixCoefficient c k w i ∧ matrixCoefficient c k w i ≤ 1 :=
  interpolate_unit (hc.struct_unit _ (by omega)) (hc.struct_unit _ (by omega)) hw

theorem structureMatrix_unit {value : V} (h0 : 0 ≤ value) (h1 : value < 1) (i : Fin 6) :
    0 ≤ (structureMatrix c value).get i ∧ (structureMatrix c value).get i ≤ 1 := by
  have hk : (floorV (structurePosition value)).toNat < 7 :=
    floorV_toNat_lt (mul_nonneg h0 (by norm_num)) (by unfold structurePosition; push_cast; linarith)
  obtain ⟨hf0, hf1⟩ := fraction_unit (structurePosition value)
  rw [structureMatrix, Six.get_ofFn]
  exact matrixCoefficient_unit hc hk (rcosWarp_unit hc hf0 hf1) i

/-- At weight 0 the warp is the table's first cell, 0 (R52, R142). -/
theorem rcosWarp_zero : rcosWarp c 0 = 0 := by
  simp [rcosWarp, romRead, floorV_eq_floor, hc.rcos_first]

/-- At `k/7` the position is `k` with nothing over, so each coefficient is the preset's (R143). -/
theorem structureMatrix_preset (k : Nat) (i : Fin 6) :
    (structureMatrix c ((k : V) / 7)).get i = c.structRom (8 * i.val + k) := by
  have hx : structurePosition ((k : V) / 7) = k := div_mul_cancel₀ _ (by norm_num)
  have hk : floorV (k : V) = k := by rw [floorV_eq_floor, Int.floor_natCast]
  simp [structureMatrix, hx, hk, rcosWarp_zero hc, matrixCoefficient, romRead]

end

/-! The parts of the invariant over a command. -/

theorem Leaves.phaseInRange {s u : State} {i : Instr} (h : Leaves s i u) (hs : s.PhaseInRange) : u.PhaseInRange := by
  cases h with
  | init => simp [State.PhaseInRange]
  | block hi hn hp hl hb => exact runFrames_keeps (P := fun b => b.ph.InUnit) (fun _ _ _ _ _ => runFrame_inUnit) hb hs
  | _ => exact hs

theorem Leaves.matrixWhole {s u : State} {i : Instr} (h : Leaves s i u) (hs : s.MatrixWhole) : u.MatrixWhole := by
  cases h with
  | init => left; simp
  | setStructure h0 h1 =>
    right
    exact fun i => ⟨_, State.setMx_get _ _ i, structureMatrix_unit Laws.Config.cfg_legal h0 h1 i⟩
  | _ => exact hs

theorem Leaves.framesCanonical {s u : State} {i : Instr} (h : Leaves s i u) (hs : s.FramesCanonical) :
    u.FramesCanonical := by
  cases h with
  | block hi hn hp hl hb =>
    refine runFrames_keeps (P := fun b => Memory.Canonical b.frames) (fun j x y _ hj hf hx => ?_) hb hs
    obtain rfl := runFrame_ok hf
    have hk : j < Config.cfg.fbFrames := by omega
    exact fbWrite_canonical hk .right _ (fbWrite_canonical hk .left _ hx)
  | _ => exact hs

/-- A command moves the cursor by its words alone, and the stream holds them. -/
theorem Leaves.cursorInStream {s u : State} {i : Instr} (h : Leaves s i u) (hw : i.words ≤ s.cs.length - s.cp)
    (hs : s.CursorInStream) : (u.advance i.words).CursorInStream := by
  obtain ⟨hcp, hcs⟩ := h.stream
  unfold State.CursorInStream at hs ⊢
  rw [State.advance_cp, State.advance_cs, hcp, hcs]
  omega

/-- Settles O56: nothing is written at reset, the phases are 0 and both cursor and stream length are 0. -/
theorem resetMeetsTheInvariant : Obligations.ResetMeetsTheInvariant where
  phase := by simp [State.PhaseInRange]
  matrix := .inl (by simp)
  frames := ⟨rfl, rfl⟩
  cursor := le_rfl

/-- Settles O54: every processed frame checks the phases it advances; only INIT writes them otherwise, to 0. -/
theorem phaseStaysInUnitRange : Obligations.PhaseStaysInUnitRange := by
  refine ⟨resetMeetsTheInvariant.phase, fun s t hs h => ?_⟩
  obtain rfl | ⟨i, u, hu, -, rfl⟩ := step_next h
  · exact hs
  · exact hu.phaseInRange hs

/-- Settles O55: each part of the invariant over what a command leaves. -/
theorem everyStepKeepsTheInvariant : Obligations.EveryStepKeepsTheInvariant := by
  intro s t hs h
  obtain rfl | ⟨i, u, hu, hw, rfl⟩ := step_next h
  · exact hs
  · exact
      { phase := hu.phaseInRange hs.phase
        matrix := hu.matrixWhole hs.matrix
        frames := hu.framesCanonical hs.frames
        cursor := hu.cursorInStream hw hs.cursor }

/-- Settles O8: the cursor is moved once, past the command's words. -/
theorem everyCommandMovesTheCursorByItsLength : Obligations.EveryCommandMovesTheCursorByItsLength := by
  intro i s t h
  obtain ⟨u, hu, rfl⟩ := exec_next h
  obtain ⟨hcp, hcs⟩ := hu.stream
  exact ⟨by rw [State.advance_cp, hcp], by rw [State.advance_cs, hcs]⟩

/-- Settles O11: the write column of R37, read off `Leaves`. -/
theorem onlyListedCommandsChangeEachRegister : Obligations.OnlyListedCommandsChangeEachRegister := by
  intro i s t h
  obtain ⟨u, hu, rfl⟩ := exec_next h
  cases hu with
  | frequency x hi => simp [hi]
  | block hi hn hp hl hb => simp [hi]
  | _ => simp

end Sys2Proof.Machine
end

section
/-! PROOFS. The frames and reads of each family of commands, and the state after reset (R35, R37, R100, R143, R152, R190). -/

namespace Sys2Proof.Machine

/-! What a frequency command reads (R100). -/

/-- A mapped part answers exactly when the part does. -/
theorem map_ok {α β : Type} {x : Except Fault α} {f : α → β} {b : β} : x.map f = .ok b ↔ ∃ a, x = .ok a ∧ f a = b := by
  cases x <;> simp [Except.map]

theorem checkChord_ok {cp row : Nat} {chord : V} :
    checkChord cp chord = .ok row ↔ (0 ≤ chordIndex chord ∧ chordIndex chord ≤ 10) ∧ row = (chordIndex chord).toNat := by
  unfold checkChord raise
  split_ifs with h
  · simp only [false_iff]
    omega
  · rw [Except.ok.injEq]
    omega

theorem checkRational_ok {cp n : Nat} {spread : V} {u : Unit} : checkRational cp n spread = .ok u ↔ n ≠ 0 ∧ 0 < spread := by
  unfold checkRational raise
  split_ifs with hn hs
  · simp [hn]
  · simp [not_lt.mpr hs]
  · simp [hn, not_le.mp hs]

/-- The operand check reads nothing of the state: the cursor is only what its fault carries. -/
theorem frequencyCheck_cursor {cp : Nat} (cp' : Nat) {i : Instr} (h : frequencyCheck cp i = .ok ()) :
    frequencyCheck cp' i = .ok () := by
  cases i with
  | freqChord note spread fine chord => simpa only [frequencyCheck, map_ok, checkChord_ok] using h
  | freqRational n spread fine => simpa only [frequencyCheck, checkRational_ok] using h
  | _ => rfl

/-- What a voice computes reads nothing of the state: the cursor is only what its fault carries. -/
theorem voiceIncrement_cursor {c : Config} {cp : Nat} (cp' : Nat) {i : Instr} {j : Fin 6} {o : Option V}
    (h : voiceIncrement c cp i j = .ok o) : voiceIncrement c cp' i j = .ok o := by
  cases i with
  | freqHarmonic base spread fine detune =>
    simpa only [voiceIncrement, harmonicVoice, map_ok, bind_ok, checkSqrt_ok] using h
  | _ => exact h

/-- A traversal that answers computed an increment, or none, for every voice the gate lets through (R101). -/
theorem voice_of_assignVoices_ok {fz : Bool} {f : Fin 6 → Except Fault (Option V)} {l : List (Fin 6)} {x y : Six (Reg V)}
    (h : assignVoices fz f l x = .ok y) {j : Fin 6} (hj : j ∈ l) (hg : ¬(fz = true ∧ j.val % 2 = 0)) :
    ∃ o, f j = .ok o := by
  induction l generalizing x with
  | nil => cases hj
  | cons i is ih =>
    rw [assignVoices] at h
    obtain rfl | hj := List.mem_cons.mp hj
    · rw [if_neg hg] at h
      cases hf : f j with
      | error e => simp [hf] at h
      | ok o => exact ⟨o, rfl⟩
    · split_ifs at h with hi
      · exact ih h hj
      · cases hf : f i with
        | error e => simp [hf] at h
        | ok o => cases o <;> simp only [hf] at h <;> exact ih h hj

/-- Where two traversals compute the same for a voice, it gets the same increment in both or keeps its own in both. -/
theorem assigned_same_or_kept {fz : Bool} {f f' : Fin 6 → Except Fault (Option V)} (x x' : Six (Reg V)) {j : Fin 6}
    (hf : ¬(fz = true ∧ j.val % 2 = 0) → f' j = f j) :
    assigned fz f' x' j = assigned fz f x j ∨ (assigned fz f x j = x.get j ∧ assigned fz f' x' j = x'.get j) := by
  unfold assigned
  split_ifs with hg
  · exact .inr ⟨rfl, rfl⟩
  · rw [hf hg]
    match f j with
    | .ok (some v) => exact .inl rfl
    | .ok none => exact .inr ⟨rfl, rfl⟩
    | .error e => exact .inr ⟨rfl, rfl⟩

/-- Settles O27: beyond FREEZE only the cursor enters the check and the voices, and only their faults show it. -/
theorem frequencyCommandsReadOnlyFreeze : Obligations.FrequencyCommandsReadOnlyFreeze := by
  intro i s s' t hi hz h
  obtain ⟨fz, x, hfz, hc, hx, rfl⟩ := (exec_frequency_next hi).mp h
  have hv : ∀ j : Fin 6, ¬(fz = true ∧ j.val % 2 = 0) →
      ∃ o, voiceIncrement Config.cfg s.cp i j = .ok o ∧ voiceIncrement Config.cfg s'.cp i j = .ok o := by
    intro j hg
    obtain ⟨o, ho⟩ := voice_of_assignVoices_ok hx (mem_descending j) hg
    exact ⟨o, ho, voiceIncrement_cursor _ ho⟩
  obtain ⟨y, hy⟩ := assignVoices_answers descending s'.inc fun j hg => (hv j hg).imp fun _ h => h.2
  refine ⟨_, (exec_frequency_next hi).mpr ⟨fz, y, hz.trans hfz, frequencyCheck_cursor _ hc, hy, rfl⟩, fun j => ?_⟩
  simp only [State.advance_inc, State.setInc_inc, assignVoices_ok hx, assignVoices_ok hy]
  refine assigned_same_or_kept _ _ fun hg => ?_
  obtain ⟨o, ho, ho'⟩ := hv j hg
  rw [ho, ho']

/-! Frames. -/

/-- Settles O25: all a frequency command does is replace the increments. -/
theorem frequencyCommandsFrame : Obligations.FrequencyCommandsFrame := by
  intro i s t hi h
  obtain ⟨_, x, -, -, -, rfl⟩ := (exec_frequency_next hi).mp h
  simp

/-- Settles O37: all SET_STRUCTURE does is replace the matrix. -/
theorem structureCommandFrame : Obligations.StructureCommandFrame := by
  intro value s t h
  obtain ⟨-, -, rfl⟩ := exec_setStructure_next h
  simp

/-- Settles O18, one command at a time: each completes in every state, with the state it leaves in closed form. -/
theorem parameterCommandsFrame : Obligations.ParameterCommandsFrame := by
  intro i s t h
  constructor
  · rintro (rfl | ⟨_, rfl⟩ | ⟨_, rfl⟩ | ⟨_, rfl⟩ | ⟨_, rfl⟩ | ⟨_, rfl⟩ | ⟨_, rfl⟩) <;>
      obtain rfl := Host.Outcome.next.inj h <;> exact ⟨rfl, fun _ => rfl⟩
  · rintro (⟨_, rfl⟩ | ⟨_, rfl⟩ | ⟨_, rfl⟩ | ⟨_, rfl⟩ | ⟨_, rfl⟩ | ⟨_, rfl⟩) <;>
      obtain rfl := Host.Outcome.next.inj h <;> simp

/-- Settles O35: at `k/7` the matrix is column `k` of the table, whose column 0 is 0 (R27). -/
theorem structureAtAPresetIsThePreset : Obligations.StructureAtAPresetIsThePreset := by
  intro k s t _ h
  obtain ⟨-, -, rfl⟩ := exec_setStructure_next h
  have hp : ∀ i : Fin 6, ((s.setMx (structureMatrix Config.cfg ((k : V) / 7))).advance 2).mx.get i =
      .val (Config.cfg.structRom (8 * i.val + k)) := by
    intro i
    rw [State.advance_mx, State.setMx_get, structureMatrix_preset Laws.Config.cfg_legal]
  refine ⟨hp, fun hk i => ?_⟩
  subst hk
  rw [hp, Nat.add_zero, Laws.Config.cfg_legal.struct_first _ i.isLt]

/-- Settles O49: every frame writes its own two cells; an empty block writes nothing. -/
theorem processingCommandsFrame : Obligations.ProcessingCommandsFrame := by
  intro i count s t hi h
  obtain ⟨-, mode, he⟩ := exec_processing hi
  rw [he] at h
  by_cases h0 : count = 0
  · subst h0
    rw [procWith_zero] at h
    obtain rfl := Host.Outcome.next.inj h
    simp
  · obtain ⟨-, p, b, -, -, hb, rfl⟩ := procWith_next_runs h h0
    have hr : ∀ a, (∀ k r, k < count → a ≠ frameCell k r) → b.frames.read a = s.frames.read a := fun a ha =>
      runFrames_keeps (P := fun x => x.frames.read a = s.frames.read a)
        (fun j x y _ hj hf hx => (runFrame_read_other hf fun r => ha j r (by omega)).trans hx) hb rfl
    simpa [h0] using hr

/-! What a processing command reads. -/

/-- Settles O51: the checks and the frames of a block are the same from both states. -/
theorem processingIgnoresFreeze : Obligations.ProcessingIgnoresFreeze := by
  intro i count s t f hi h
  obtain ⟨-, mode, he⟩ := exec_processing hi
  rw [he] at h ⊢
  by_cases h0 : count = 0
  · subst h0
    rw [procWith_zero] at h ⊢
    obtain rfl := Host.Outcome.next.inj h
    rfl
  · obtain ⟨hn, p, b, hp, hl, hb, rfl⟩ := procWith_next_runs h h0
    have hp' : p.Of { s with freeze := f } :=
      ⟨hp.inc, hp.mx, hp.feedback, hp.modindex, hp.bitcrush, hp.decimate, hp.drive⟩
    have hb' : runFrames Config.cfg s.cp mode p count 0 ({ s with freeze := f } : State).block = .ok b := hb
    rw [procWith_checked hp' hl (Nat.pos_of_ne_zero h0) hn, hb']
    simp only [blockResult, ← runFrames_ok hb']
    rfl

/-- Six direct gains of `[0,1]` and the headroom 2 (R28, R170). -/
theorem totalGain_range {p : Params} (h : ∀ i, 0 ≤ p.mx.get i ∧ p.mx.get i ≤ 1) : 2 ≤ totalGain p ∧ totalGain p ≤ 8 := by
  unfold totalGain gain
  constructor <;> linarith [h 0, h 1, h 2, h 3, h 4, h 5]

/-- A whole matrix that a block could read is written, so in `[0,1]` (R36). -/
theorem Params.Of.mx_unit {p : Params} {s : State} (hp : p.Of s) (hm : s.MatrixWhole) (i : Fin 6) :
    0 ≤ p.mx.get i ∧ p.mx.get i ≤ 1 := by
  obtain hu | hv := hm
  · exact absurd (hp.mx i) (by simp [hu i])
  · obtain ⟨v, hv, hr⟩ := hv i
    rw [hp.mx i] at hv
    cases hv
    exact hr

/-- Settles O53: the checks of R153 give the levels, and a matrix in `[0,1]` the gain. -/
theorem noFrameDividesByZero : Obligations.NoFrameDividesByZero := by
  refine ⟨fun p => totalGain_range, fun i count s t hi h1 h => ?_, fun i count s t p _ _ hm hp _ => ?_⟩
  · obtain ⟨-, mode, he⟩ := exec_processing hi
    rw [he] at h
    obtain ⟨-, p, b, hp, ⟨hd, hb, hv⟩, -⟩ := procWith_next_runs h (by omega)
    rw [hp.decimate, hp.bitcrush, hp.drive]
    exact ⟨hd.ne', hb.ne', mt (Laws.Config.cfg_legal.sat_zero _).mp hv⟩
  · exact (lt_of_lt_of_le two_pos (totalGain_range (hp.mx_unit hm)).1).ne'

/-! The state after reset. -/

/-- Settles O12: INIT gives every register what power-on does. -/
theorem resetLeavesTheStatedValues : Obligations.ResetLeavesTheStatedValues := by
  have hinit : ∀ s t : State, exec .init s = .next t →
      t = { State.reset with frames := s.frames, cs := s.cs, cp := s.cp + 1 } :=
    fun s t h => (Host.Outcome.next.inj h).symm
  have hfb : ∀ i r, (State.reset.fb.get i).get r = 0 := by
    intro i r
    rw [State.reset_fb, Six.get_replicate]
    cases r <;> rfl
  exact ⟨Six.get_replicate 0, hfb, Six.get_replicate Reg.undef, Six.get_replicate Reg.undef,
    rfl, rfl, rfl, rfl, rfl, rfl, rfl, hinit⟩

/-- Settles O13: a host write leaves every other cell. -/
theorem unwrittenFrameCellsHoldTheirFreeValue : Obligations.UnwrittenFrameCellsHoldTheirFreeValue := by
  refine ⟨fun _ => rfl, fun s t a b v hb hab h => ?_⟩
  unfold State.hostWrite at h
  split_ifs at h
  obtain rfl := Option.some.inj h
  rw [Memory.read_write, if_neg hab.symm, hb]

/-- Settles O16: a frequency command stops at FREEZE, a block at the first increment. -/
theorem unwrittenRegistersFaultAfterReset : Obligations.UnwrittenRegistersFaultAfterReset := by
  rintro i (hi | ⟨count, hi, h1, h2⟩)
  · rw [exec_frequency hi]
    rfl
  · obtain ⟨-, mode, he⟩ := exec_processing hi
    have hc : checkCount Config.cfg 0 count = .ok () := if_neg (not_lt.mpr h2)
    have hs : snapshot Config.cfg State.reset = .error (.unwrittenRead 0) := rfl
    have h0 : count ≠ 0 := by omega
    simp [he, procWith, runBlock, hc, hs, h0, bind, Except.bind]

end Sys2Proof.Machine
end

section
/-! PROOFS. The host's moves: what a write leaves, and the invariant over every move (R54, R58, R65, R66, R245). -/

namespace Sys2Proof.Machine

/-- The host writes a cell `FB` has, and nothing but that cell (R66). -/
theorem hostWrite_some {s t : State} {a : Nat} {v : V} :
    s.hostWrite a v = some t ↔ a < fbCells Config.cfg ∧ t = { s with frames := s.frames.write a v } := by
  unfold State.hostWrite
  split_ifs with h <;> simp [h, eq_comm]

/-- What is appended lies past the cursor (R65). -/
theorem State.Inv.hostAppend {s : State} (h : s.Inv) (ws : List Word) : (s.hostAppend ws).Inv where
  phase := h.phase
  matrix := h.matrix
  frames := h.frames
  cursor := by
    rw [State.CursorInStream, State.hostAppend_cs, List.length_append]
    exact Nat.le_add_right_of_le h.cursor

theorem State.Inv.hostWrite {s t : State} {a : Nat} {v : V} (h : s.Inv) (ht : s.hostWrite a v = some t) : t.Inv := by
  obtain ⟨ha, rfl⟩ := hostWrite_some.mp ht
  exact
    { phase := h.phase
      matrix := h.matrix
      frames := ⟨Memory.write_wf a v h.frames.1, Memory.write_below ha h.frames.2⟩
      cursor := h.cursor }

/-- A launch is a reset but for the stream, which starts with the cursor at 0 (R230). -/
theorem launch_inv (cs : List Word) : (launch cs).Inv where
  phase := resetMeetsTheInvariant.phase
  matrix := resetMeetsTheInvariant.matrix
  frames := resetMeetsTheInvariant.frames
  cursor := Nat.zero_le _

/-- A cell the host has written reads as written (R62, R66). -/
theorem hostRead_hostWrite_same {s t : State} {a : Nat} {v : V} (h : s.hostWrite a v = some t) :
    t.hostRead a = some v := by
  obtain ⟨ha, rfl⟩ := hostWrite_some.mp h
  simp [State.hostRead, ha]

/-- Every other cell reads as before (R58, R66). -/
theorem hostRead_hostWrite_other {s t : State} {a b : Nat} {v : V} (h : s.hostWrite a v = some t) (hb : b ≠ a) :
    t.hostRead b = s.hostRead b := by
  obtain ⟨-, rfl⟩ := hostWrite_some.mp h
  simp [State.hostRead, hb]

/-- Settles O57: each move keeps every part of the invariant, and a written cell is read back. -/
theorem hostMovesKeepTheInvariant : Obligations.HostMovesKeepTheInvariant :=
  ⟨fun _ ws hs => hs.hostAppend ws,
    fun _ _ _ _ hs h => ⟨hs.hostWrite h, hostRead_hostWrite_same h, fun _ => hostRead_hostWrite_other h⟩,
    launch_inv⟩

end Sys2Proof.Machine
end

section
/-! PROOFS. Table reads stay in their spaces (R50 to R53, R60, R107, R141, R154). -/

namespace Sys2Proof.Machine

/-- `c` with the four tables of `t`. -/
def withTables (c t : Config) : Config :=
  { c with sineRom := t.sineRom, rcosRom := t.rcosRom, chordRom := t.chordRom, structRom := t.structRom }

@[simp] theorem withTables_sineSize (c t : Config) : (withTables c t).sineSize = c.sineSize := rfl
@[simp] theorem withTables_rcosSize (c t : Config) : (withTables c t).rcosSize = c.rcosSize := rfl

/-- The nearest entry is one of the row's six (R105). -/
theorem nearest_lt (T : Nat → V) (q : V) : nearest T q < 6 := by
  unfold nearest
  split_ifs <;> decide

/-- A note is quantised by the six entries of its row alone (R105, R109). -/
theorem quantisedNote_congr {T T' : Nat → V} (h : ∀ j, j < 6 → T' j = T j) (n : V) :
    quantisedNote T' n = quantisedNote T n := by
  have hn : ∀ q, nearest T' q = nearest T q := by
    intro q
    simp [nearest, h]
  rw [quantisedNote, quantisedNote, hn, h _ (nearest_lt T _)]

theorem checkStructure_ok {cp : Nat} {value : V} {u : Unit} :
    checkStructure cp value = .ok u ↔ 0 ≤ value ∧ value < 1 := by
  unfold checkStructure raise
  split_ifs with h
  · simp only [false_iff, not_and, not_lt]
    exact fun h0 => h.resolve_left (not_lt.mpr h0)
  · simpa [not_or] using h

section
variable {c t : Config} (h : ∀ space a, a < romCells c space → romRead (withTables c t) space a = romRead c space a)
include h

/-! Each read and its space. -/

/-- An index modulo `SINE_SIZE` is a cell of `SINE` (R51). -/
theorem wave_withTables (hc : c.Legal) (q : V) : wave (withTables c t) q = wave c q := by
  have hs : (0 : Int) < c.sineSize := Int.natCast_pos.mpr hc.sineSize_pos
  have hr : ∀ k : Int, romRead (withTables c t) .sine (k % (c.sineSize : Int)).toNat =
      romRead c .sine (k % (c.sineSize : Int)).toNat := fun k =>
    h .sine _ ((Int.toNat_lt (Int.emod_nonneg k hs.ne')).mpr (Int.emod_lt_of_pos k hs))
  simp only [wave, withTables_sineSize, hr]

/-- A fraction below 1 falls before the last cell of `RCOS` (R52). -/
theorem rcosWarp_withTables (hc : c.Legal) {f : V} (h0 : 0 ≤ f) (h1 : f < 1) :
    rcosWarp (withTables c t) f = rcosWarp c f := by
  have hs : (0 : V) < c.rcosSize := Nat.cast_pos.mpr hc.rcosSize_pos
  have hj : (floorV (f * c.rcosSize)).toNat < c.rcosSize :=
    floorV_toNat_lt (mul_nonneg h0 hs.le) (mul_lt_of_lt_one_left hs h1)
  simp only [rcosWarp, withTables_rcosSize, h .rcos _ (Nat.lt_succ_of_lt hj), h .rcos _ (Nat.succ_lt_succ hj)]

/-- A row that passes its check is one of the eleven (R53, R107). -/
theorem chordRow_withTables {cp row j : Nat} {chord : V} (hk : checkChord cp chord = .ok row) (hj : j < 6) :
    chordRow (withTables c t) row j = chordRow c row j := by
  obtain ⟨⟨-, h10⟩, rfl⟩ := checkChord_ok.mp hk
  exact h .chord _ (show _ < 66 by omega)

/-- An operand of `[0,1)` falls between two of the eight preset columns (R53, R141). -/
theorem structureMatrix_withTables (hc : c.Legal) {value : V} (h0 : 0 ≤ value) (h1 : value < 1) :
    structureMatrix (withTables c t) value = structureMatrix c value := by
  have hk : (floorV (structurePosition value)).toNat < 7 :=
    floorV_toNat_lt (mul_nonneg h0 (by norm_num)) (by unfold structurePosition; push_cast; linarith)
  obtain ⟨hf0, hf1⟩ := fraction_unit (structurePosition value)
  refine Six.ext_get fun i => ?_
  simp only [structureMatrix, Six.get_ofFn, matrixCoefficient, rcosWarp_withTables h hc hf0 hf1]
  rw [h .struct _ (show _ < 48 by omega), h .struct _ (show _ < 48 by omega)]

/-! The commands that read a table. -/

theorem freqChordWith_withTables (note spread fine chord : V) (s : State) :
    freqChordWith (withTables c t) note spread fine chord s = freqChordWith c note spread fine chord s := by
  unfold freqChordWith
  cases hk : checkChord s.cp chord with
  | error e => rfl
  | ok row =>
    have hq := quantisedNote_congr (T' := chordRow (withTables c t) row) fun j hj => chordRow_withTables h hk hj
    have hi : chordIncrement (withTables c t) row note spread fine = chordIncrement c row note spread fine := by
      funext i
      simp only [chordIncrement, chordArgument, hq]
      rfl
    simp only [bind, Except.bind, hi]

theorem setStructureWith_withTables (hc : c.Legal) (value : V) (s : State) :
    setStructureWith (withTables c t) value s = setStructureWith c value s := by
  unfold setStructureWith
  cases hk : checkStructure s.cp value with
  | error e => rfl
  | ok u =>
    obtain ⟨h0, h1⟩ := checkStructure_ok.mp hk
    rw [structureMatrix_withTables h hc h0 h1]

/-- The one table a voice reads is the waveform's (R154). -/
theorem runVoice_withTables (hc : c.Legal) (cp : Nat) (mode : Mode) (p : Params) (inp : Rails) (i : Fin 6) (x : Chain) :
    runVoice (withTables c t) cp mode p inp i x = runVoice c cp mode p inp i x := by
  have hs : ∀ r ph, railSample (withTables c t) p r ph = railSample c p r ph := fun r ph => by
    simp only [railSample, wave_withTables h hc]
    rfl
  have ho : railOutput (withTables c t) mode p inp i x = railOutput c mode p inp i x := by
    funext r ph
    cases mode <;> simp only [railOutput, hs]
  unfold runVoice
  rw [ho]
  rfl

theorem runVoices_withTables (hc : c.Legal) (cp : Nat) (mode : Mode) (p : Params) (inp : Rails) (l : List (Fin 6))
    (x : Chain) : runVoices (withTables c t) cp mode p inp l x = runVoices c cp mode p inp l x := by
  induction l generalizing x with
  | nil => rfl
  | cons i is ih => simp only [runVoices, runVoice_withTables h hc, ih]

theorem runFrames_withTables (hc : c.Legal) (cp : Nat) (mode : Mode) (p : Params) (n k : Nat) (b : Block) :
    runFrames (withTables c t) cp mode p n k b = runFrames c cp mode p n k b := by
  induction n generalizing k b with
  | zero => rfl
  | succ n ih => simp only [runFrames, runFrame, runVoices_withTables h hc, ih]

theorem procWith_withTables (hc : c.Legal) (mode : Mode) (count : Nat) (s : State) :
    procWith (withTables c t) mode count s = procWith c mode count s := by
  unfold procWith runBlock
  simp only [runFrames_withTables h hc]
  rfl

end

/-- Settles O52: each table index is inside its space, and the commands see the tables through those reads alone. -/
theorem tableReadsStayInTheirSpace : Obligations.TableReadsStayInTheirSpace := by
  intro c c' hc hc' h
  obtain ⟨t, rfl⟩ : ∃ t, c' = withTables c t := ⟨c', hc'⟩
  exact ⟨wave_withTables h hc, fun f => rcosWarp_withTables h hc, fun cp row j chord => chordRow_withTables h,
    fun value => structureMatrix_withTables h hc, freqChordWith_withTables h, setStructureWith_withTables h hc,
    procWith_withTables h hc⟩

end Sys2Proof.Machine
end

section
/-! PROOFS. A frame by the equations of its voices, and the frames of a block one after the other (R152, R155 to R170). -/

namespace Sys2Proof.Machine

section
variable {c : Config} {mode : Mode} {p : Params}

/-! One frame without its range checks: what it reads and what it writes. -/

@[simp] theorem frameInput_get (m : Memory) (k : Nat) (r : Rail) : (frameInput m k).get r = m.read (frameCell k r) := by
  cases r <;> rfl

/-- A frame's output pair, in its place (R152, R170). -/
theorem plainFrame_read_own (k : Nat) (b : Block) (r : Rail) :
    (plainFrame c mode p k b).frames.read (frameCell k r) =
      normalise mode p ((plainVoices c mode p (frameInput b.frames k) ascending (frameStart b)).acc.get r) := by
  cases r <;> simp [plainFrame, fbWrite, Rails.get]

theorem plainFrame_read_other {k a : Nat} (b : Block) (ha : ∀ r, a ≠ frameCell k r) :
    (plainFrame c mode p k b).frames.read a = b.frames.read a := by
  simp only [plainFrame, fbWrite, Memory.read_write, if_neg (ha .left), if_neg (ha .right)]

/-- A frame takes a block's registers and its own input pair from it, and nothing else (R152). -/
theorem frameVoices_congr {k : Nat} {b b' : Block} (hph : b'.ph = b.ph) (hfb : b'.fb = b.fb)
    (hin : ∀ r, b'.frames.read (frameCell k r) = b.frames.read (frameCell k r)) :
    plainVoices c mode p (frameInput b'.frames k) ascending (frameStart b') =
      plainVoices c mode p (frameInput b.frames k) ascending (frameStart b) := by
  simp only [frameStart, frameInput, fbRead, hph, hfb, hin]

/-- The last of `n + 1` frames. -/
theorem plainFrames_succ_last (n k : Nat) (b : Block) :
    plainFrames c mode p (n + 1) k b = plainFrame c mode p (k + n) (plainFrames c mode p n k b) := by
  induction n generalizing k b with
  | zero => rfl
  | succ n ih => rw [plainFrames, ih, plainFrames, Nat.add_right_comm, Nat.add_assoc]

/-! The voices of a frame. -/

/-- What a voice puts out on a rail (R163), without the range check of its phase. -/
def voiceOutput (c : Config) (mode : Mode) (p : Params) (inp : Rails) (i : Fin 6) (x : Chain) (r : Rail) : V :=
  railOutput c mode p inp i x r (plainPhase c mode p inp i x r)

/-- Of the chain a voice reads its own phase and histories and the carry (R157, R164). -/
theorem voiceOutput_congr {inp : Rails} {i : Fin 6} {x y : Chain} {r : Rail} (hph : x.ph.get i = y.ph.get i)
    (hfb : (x.fb.get i).get r = (y.fb.get i).get r) (hm : x.carry = y.carry) :
    voiceOutput c mode p inp i x r = voiceOutput c mode p inp i y r := by
  cases mode <;> simp only [voiceOutput, railOutput, plainPhase, phaseSum, amFactor, hph, hfb, hm]

/-- The hand-off of every voice but the last (R166). -/
theorem plainVoice_carry {inp : Rails} {i : Fin 6} (hi : i.val < 5) (x : Chain) :
    (plainVoice c mode p inp i x).carry =
      handOff mode p.modindex (p.mx.get i) (voiceOutput c mode p inp i x .left) :=
  if_pos hi

/-- A voice adds its output to the stereo sum by its direct gain (R167). -/
theorem plainVoice_acc (inp : Rails) (i : Fin 6) (x : Chain) (r : Rail) :
    (plainVoice c mode p inp i x).acc.get r = x.acc.get r + voiceOutput c mode p inp i x r * gain p i := by
  cases r <;> rfl

/-- A voice smooths its own histories and leaves the others' (R165). -/
theorem plainVoice_fb (inp : Rails) (i j : Fin 6) (x : Chain) (r : Rail) :
    ((plainVoice c mode p inp i x).fb.get j).get r =
      if j = i then smooth ((x.fb.get i).get r) (voiceOutput c mode p inp i x r) else (x.fb.get j).get r := by
  simp only [plainVoice, voiceUpdate, Six.get_set]
  split_ifs
  · cases r <;> rfl
  · rfl

theorem plainVoices_append (inp : Rails) (l l' : List (Fin 6)) (x : Chain) :
    plainVoices c mode p inp (l ++ l') x = plainVoices c mode p inp l' (plainVoices c mode p inp l x) := by
  induction l generalizing x with
  | nil => rfl
  | cons i is ih => exact ih _

/-- Voices leave the histories of the others (R165). -/
theorem plainVoices_fb_other (inp : Rails) {l : List (Fin 6)} {j : Fin 6} (hj : j ∉ l) (x : Chain) (r : Rail) :
    ((plainVoices c mode p inp l x).fb.get j).get r = (x.fb.get j).get r := by
  induction l generalizing x with
  | nil => rfl
  | cons i is ih =>
    obtain ⟨hi, his⟩ := not_or.mp (mt List.mem_cons.mpr hj)
    rw [plainVoices, ih his, plainVoice_fb, if_neg hi]

/-- The voices before voice `i` in the order of a frame (R155). -/
def voicesBefore (i : Fin 6) : List (Fin 6) := ascending.take i.val

/-- The order of a frame around one of its voices. -/
theorem ascending_split (i : Fin 6) :
    ∃ l, ascending = voicesBefore i ++ i :: l ∧ i ∉ voicesBefore i ∧ i ∉ l ∧ (voicesBefore i).Nodup :=
  ⟨ascending.drop (i.val + 1), by revert i; decide⟩

theorem voicesBefore_succ {i j : Fin 6} (h : j.val = i.val + 1) : voicesBefore j = voicesBefore i ++ [i] := by
  revert i j
  decide

/-- The chain as voice `i` of a frame that starts from `x` finds it (R155). -/
def chainBefore (c : Config) (mode : Mode) (p : Params) (inp : Rails) (x : Chain) (i : Fin 6) : Chain :=
  plainVoices c mode p inp (voicesBefore i) x

/-- A voice finds its own phase as the frame found it (R155). -/
theorem chainBefore_ph (inp : Rails) (x : Chain) (i : Fin 6) :
    (chainBefore c mode p inp x i).ph.get i = x.ph.get i := by
  obtain ⟨l, -, hi, -, hn⟩ := ascending_split i
  rw [chainBefore, plainVoices_ph hn, if_neg hi]

/-- A voice finds its own histories as the frame found them (R155). -/
theorem chainBefore_fb (inp : Rails) (x : Chain) (i : Fin 6) (r : Rail) :
    ((chainBefore c mode p inp x i).fb.get i).get r = (x.fb.get i).get r := by
  obtain ⟨l, -, hi, -, -⟩ := ascending_split i
  rw [chainBefore, plainVoices_fb_other inp hi]

/-- The carry a voice finds is the one the voice before it handed on (R155, R166). -/
theorem chainBefore_carry_succ (inp : Rails) (x : Chain) {i j : Fin 6} (h : j.val = i.val + 1) :
    (chainBefore c mode p inp x j).carry =
      handOff mode p.modindex (p.mx.get i) (voiceOutput c mode p inp i (chainBefore c mode p inp x i) .left) := by
  rw [chainBefore, voicesBefore_succ h, plainVoices_append]
  exact plainVoice_carry (by omega) _

/-- After the six voices every history has moved towards its voice's output (R165). -/
theorem plainVoices_fb (inp : Rails) (x : Chain) (i : Fin 6) (r : Rail) :
    ((plainVoices c mode p inp ascending x).fb.get i).get r =
      smooth ((x.fb.get i).get r) (voiceOutput c mode p inp i (chainBefore c mode p inp x i) r) := by
  obtain ⟨l, ha, -, hi, -⟩ := ascending_split i
  rw [ha, plainVoices_append, plainVoices, plainVoices_fb_other inp hi, plainVoice_fb, if_pos rfl]
  exact congrArg (smooth · _) (chainBefore_fb inp x i r)

/-- The six voices add up (R167). -/
theorem plainVoices_acc (inp : Rails) (x : Chain) (r : Rail) :
    (plainVoices c mode p inp ascending x).acc.get r =
      x.acc.get r + ∑ i : Fin 6, voiceOutput c mode p inp i (chainBefore c mode p inp x i) r * gain p i := by
  simp only [ascending, plainVoices, plainVoice_acc, Fin.sum_univ_six]
  simp only [← add_assoc]
  rfl

/-! The equations of a frame. -/

/-- The equations of frame `k` from `b` to `b'` (R155, R163 to R170): the carry `m` and the outputs `v` of its voices, and
what the frame makes of them. -/
structure FrameFollows (c : Config) (mode : Mode) (p : Params) (k : Nat) (b b' : Block) (m : Fin 6 → V)
    (v : Fin 6 → Rail → V) : Prop where
  seed : m 0 = 1
  carry : ∀ i j : Fin 6, j.val = i.val + 1 → m j = handOff mode p.modindex (p.mx.get i) (v i .left)
  output : ∀ i r, v i r = voiceOutput c mode p (frameInput b.frames k) i { frameStart b with carry := m i } r
  phase : ∀ i, b'.ph.get i = advancePhase (b.ph.get i) (p.inc.get i)
  history : ∀ i r, (b'.fb.get i).get r = smooth ((b.fb.get i).get r) (v i r)
  pair : ∀ r, b'.frames.read (frameCell k r) = normalise mode p (∑ i : Fin 6, v i r * gain p i)
  others : ∀ a, (∀ r, a ≠ frameCell k r) → b'.frames.read a = b.frames.read a

theorem plainFrame_follows (c : Config) (mode : Mode) (p : Params) (k : Nat) (b : Block) :
    ∃ m v, FrameFollows c mode p k b (plainFrame c mode p k b) m v := by
  refine ⟨fun i => (chainBefore c mode p (frameInput b.frames k) (frameStart b) i).carry,
    fun i => voiceOutput c mode p (frameInput b.frames k) i
      (chainBefore c mode p (frameInput b.frames k) (frameStart b) i), ?_⟩
  exact
    { seed := rfl
      carry := fun i j => chainBefore_carry_succ _ _
      output := fun i r => voiceOutput_congr (chainBefore_ph _ _ i) (chainBefore_fb _ _ i r) rfl
      phase := plainFrame_ph
      history := plainVoices_fb _ (frameStart b)
      pair := fun r => by
        have h0 : (frameStart b).acc.get r = 0 := by cases r <;> rfl
        rw [plainFrame_read_own, plainVoices_acc, h0, zero_add]
      others := fun a => plainFrame_read_other b }

end

/-! The frames of a block. -/

/-- A snapshot is determined by the state it is taken of (R153). -/
theorem Params.Of.unique {p q : Params} {s : State} (hp : p.Of s) (hq : q.Of s) : p = q := by
  have hinc : p.inc = q.inc := Six.ext_get fun i => Reg.val.inj ((hp.inc i).symm.trans (hq.inc i))
  have hmx : p.mx = q.mx := Six.ext_get fun i => Reg.val.inj ((hp.mx i).symm.trans (hq.mx i))
  have hfeedback := Reg.val.inj (hp.feedback.symm.trans hq.feedback)
  have hmodindex := Reg.val.inj (hp.modindex.symm.trans hq.modindex)
  have hbitcrush := hp.bitcrush.symm.trans hq.bitcrush
  have hdecimate := hp.decimate.symm.trans hq.decimate
  have hdrive := hp.drive.symm.trans hq.drive
  cases p
  cases q
  simp_all

/-- A block that answers has run its frames one after the other, each by its equations (R152). -/
theorem procWith_frames_follow {mode : Mode} {count : Nat} {s t : State} {p : Params} (hp : p.Of s)
    (h : procWith Config.cfg mode count s = .next t) :
    ∃ b : Nat → Block, b 0 = s.block ∧ b count = t.block ∧
      ∀ k, k < count → ∃ m v, FrameFollows Config.cfg mode p k (b k) (b (k + 1)) m v := by
  refine ⟨fun k => plainFrames Config.cfg mode p k 0 s.block, rfl, ?_, fun k _ => ?_⟩
  · obtain ⟨-, ⟨rfl, rfl⟩ | ⟨q, -, hq, -, rfl⟩⟩ := procWith_next h
    · rfl
    · rw [hp.unique hq]
      rfl
  · simp only [plainFrames_succ_last, Nat.zero_add]
    exact plainFrame_follows ..

/-- With a matrix in `[0,1]` the stereo sum is divided by the total gain (R28, R170). -/
theorem overGain_of_unit {p : Params} (h : ∀ i, 0 ≤ p.mx.get i ∧ p.mx.get i ≤ 1) (acc : V) :
    overGain p acc = acc / ((∑ i : Fin 6, (1 - p.mx.get i)) + 2) := by
  have h0 : totalGain p ≠ 0 := (lt_of_lt_of_le two_pos (totalGain_range h).1).ne'
  rw [overGain, if_neg h0, Fin.sum_univ_six]
  rfl

/-- Settles O42: the equations of a frame, read in FM mode. -/
theorem fmFrameFollowsItsEquations : Obligations.FmFrameFollowsItsEquations := by
  intro count s t p hm hp h
  obtain ⟨b, hs, ht, hb⟩ := procWith_frames_follow hp h
  refine ⟨b, hs, ht, fun k hk => ?_⟩
  obtain ⟨m, v, hf⟩ := hb k hk
  refine ⟨m, v, hf.seed, hf.carry, fun i r => ?_, hf.phase, hf.history, fun r => ?_, hf.others⟩
  · rw [hf.output, ← frameInput_get]
    rfl
  · rw [hf.pair]
    exact overGain_of_unit (hp.mx_unit hm) _

/-- Settles O43: the equations of a frame, read in AM mode. -/
theorem amFrameFollowsItsEquations : Obligations.AmFrameFollowsItsEquations := by
  intro count s t p hm hp h
  obtain ⟨b, hs, ht, hb⟩ := procWith_frames_follow hp h
  refine ⟨b, hs, ht, fun k hk => ?_⟩
  obtain ⟨m, v, hf⟩ := hb k hk
  refine ⟨m, v, hf.seed, hf.carry, fun i r => ?_, hf.phase, hf.history, fun r => ?_, hf.others⟩
  · rw [hf.output, ← frameInput_get]
    rfl
  · rw [hf.pair]
    exact congrArg (· / 2) (overGain_of_unit (hp.mx_unit hm) _)

/-! Causality of the frames. -/

/-- Two blocks before frame `j` that read alike up to frame `k`: the cells up to `k`, and as long as frame `k` is still to
come the registers. -/
def AgreeUpTo (k j : Nat) (b b' : Block) : Prop :=
  (∀ a, a < 2 * (k + 1) → b'.frames.read a = b.frames.read a) ∧ (j ≤ k → b'.ph = b.ph ∧ b'.fb = b.fb)

theorem frameCell_lt (k : Nat) (r : Rail) : frameCell k r < 2 * (k + 1) := by
  cases r <;> simp only [frameCell_left, frameCell_right] <;> omega

theorem le_frameCell (k : Nat) (r : Rail) : 2 * k ≤ frameCell k r := Nat.le_add_right _ _

/-- A frame keeps two blocks alike: up to frame `k` both runs compute the same, beyond it neither writes a cell up to `k`
(R62, R152). -/
theorem plainFrame_agree {c : Config} {mode : Mode} {p : Params} {k j : Nat} {b b' : Block} (h : AgreeUpTo k j b b') :
    AgreeUpTo k (j + 1) (plainFrame c mode p j b) (plainFrame c mode p j b') := by
  obtain ⟨hcells, hregs⟩ := h
  by_cases hj : j ≤ k
  · obtain ⟨hph, hfb⟩ := hregs hj
    have hv := frameVoices_congr (c := c) (mode := mode) (p := p) hph hfb fun r =>
      hcells _ (lt_of_lt_of_le (frameCell_lt j r) (by omega))
    refine ⟨fun a ha => ?_, fun _ => by simp only [plainFrame, hv, and_self]⟩
    by_cases hown : ∃ r, a = frameCell j r
    · obtain ⟨r, rfl⟩ := hown
      rw [plainFrame_read_own, plainFrame_read_own, hv]
    · rw [plainFrame_read_other _ (not_exists.mp hown), plainFrame_read_other _ (not_exists.mp hown), hcells a ha]
  · refine ⟨fun a ha => ?_, fun hk => absurd hk (by omega)⟩
    have hown : ∀ r, a ≠ frameCell j r := fun r => by
      have := le_frameCell j r
      omega
    rw [plainFrame_read_other _ hown, plainFrame_read_other _ hown, hcells a ha]

theorem plainFrames_agree {c : Config} {mode : Mode} {p : Params} {k : Nat} (n : Nat) {j : Nat} {b b' : Block}
    (h : AgreeUpTo k j b b') : AgreeUpTo k (j + n) (plainFrames c mode p n j b) (plainFrames c mode p n j b') := by
  induction n with
  | zero => exact h
  | succ n ih =>
    rw [plainFrames_succ_last, plainFrames_succ_last]
    exact plainFrame_agree ih

/-- No register a block is set up from is in the frame buffer (R153). -/
theorem Params.Of.of_frames {p : Params} {s : State} {m : Memory} (h : p.Of { s with frames := m }) : p.Of s :=
  ⟨h.inc, h.mx, h.feedback, h.modindex, h.bitcrush, h.decimate, h.drive⟩

/-- Settles O50: both runs take the same snapshot, and each frame keeps the blocks alike up to frame `k`. -/
theorem outputFramesDependOnNoLaterInput : Obligations.OutputFramesDependOnNoLaterInput := by
  intro i count k s t t' m hi hm h h'
  obtain ⟨-, mode, he⟩ := exec_processing hi
  rw [he] at h h'
  obtain ⟨-, ⟨rfl, rfl⟩ | ⟨p, h0, hp, -, rfl⟩⟩ := procWith_next h
  · rw [procWith_zero] at h'
    obtain rfl := Host.Outcome.next.inj h'
    exact hm
  · obtain ⟨-, ⟨hz, -⟩ | ⟨p', -, hp', -, rfl⟩⟩ := procWith_next h'
    · exact absurd hz h0
    · obtain rfl := hp.unique hp'.of_frames
      have hstart : AgreeUpTo k 0 s.block ({ s with frames := m } : State).block := ⟨hm, fun _ => ⟨rfl, rfl⟩⟩
      exact (plainFrames_agree count hstart).1

end Sys2Proof.Machine
end

section
/-! PROOFS. Operand words and the values they carry (R75): a word by its three fields, a value by its sign and its units of
`2^-149`, and the two conversions between them. -/

namespace Sys2Proof

/-! Magnitudes in units of `2^-149`. -/

/-- The units of `2^-149` that an exponent field `e` and a fraction field `f` stand for (R75). -/
def magnitude (e f : Nat) : Nat := if e = 0 then f else (2 ^ 23 + f) * 2 ^ (e - 1)

theorem magnitude_zero (f : Nat) : magnitude 0 f = f := rfl

theorem magnitude_succ (k f : Nat) : magnitude (k + 1) f = (2 ^ 23 + f) * 2 ^ k := rfl

theorem magnitude_eq_zero {e f : Nat} : magnitude e f = 0 ↔ e = 0 ∧ f = 0 := by
  cases e <;> simp [magnitude]

theorem pow_le_magnitude_succ (k f : Nat) : 2 ^ 23 ≤ magnitude (k + 1) f :=
  (Nat.le_add_right _ f).trans (Nat.le_mul_of_pos_right _ (by positivity))

theorem log2_eq_add_iff {m k : Nat} (hm : m ≠ 0) : Nat.log2 m = k + 23 ↔ 2 ^ 23 * 2 ^ k ≤ m ∧ m < 2 ^ 24 * 2 ^ k := by
  rw [Nat.log2_eq_iff hm, show 2 ^ (k + 23) = 2 ^ 23 * 2 ^ k by ring, show 2 ^ (k + 23 + 1) = 2 ^ 24 * 2 ^ k by ring]

theorem log2_magnitude_succ (k : Nat) {f : Nat} (hf : f < 2 ^ 23) : Nat.log2 (magnitude (k + 1) f) = k + 23 := by
  have hpos : magnitude (k + 1) f ≠ 0 := by simp [magnitude_eq_zero]
  rw [log2_eq_add_iff hpos, magnitude_succ]
  exact ⟨Nat.mul_le_mul_right _ (by omega), Nat.mul_lt_mul_of_pos_right (by omega) (by positivity)⟩

theorem exponentField_magnitude (e : Nat) {f : Nat} (hf : f < 2 ^ 23) : exponentField (magnitude e f) = e := by
  unfold exponentField
  cases e with
  | zero => rw [magnitude_zero, if_pos hf]
  | succ k => rw [if_neg (pow_le_magnitude_succ k f).not_gt, log2_magnitude_succ k hf]; rfl

theorem fractionField_magnitude (e : Nat) {f : Nat} (hf : f < 2 ^ 23) : fractionField (magnitude e f) = f := by
  unfold fractionField
  rw [exponentField_magnitude e hf]
  cases e with
  | zero => rw [magnitude_zero, if_pos hf]
  | succ k =>
    rw [if_neg (pow_le_magnitude_succ k f).not_gt, magnitude_succ, Nat.add_sub_cancel, Nat.mul_div_cancel _ (by positivity),
      Nat.add_sub_cancel_left]

/-- A magnitude of 24 significant bits above the least exponent has its fraction field (R75). -/
theorem exists_magnitude_succ {m k : Nat} (hm : m ≠ 0) (hlog : Nat.log2 m = k + 23) (hdvd : 2 ^ k ∣ m) :
    ∃ f, f < 2 ^ 23 ∧ m = magnitude (k + 1) f := by
  obtain ⟨hlo, hhi⟩ := (log2_eq_add_iff hm).1 hlog
  obtain ⟨q, rfl⟩ := hdvd
  rw [mul_comm (2 ^ k)] at hlo hhi
  have hqlo : 2 ^ 23 ≤ q := Nat.le_of_mul_le_mul_right hlo (by positivity)
  have hqhi : q < 2 ^ 24 := Nat.lt_of_mul_lt_mul_right hhi
  exact ⟨q - 2 ^ 23, by omega, by rw [magnitude_succ, Nat.add_sub_cancel' hqlo, mul_comm]⟩

/-- The magnitudes `isBinary32` accepts are those of the fields of an operand word (R75). -/
theorem exists_magnitude_iff {m : Nat} :
    m < 2 ^ 24 ∨ Nat.log2 m ≤ 276 ∧ m % 2 ^ (Nat.log2 m - 23) = 0 ↔
      ∃ e f, e < 255 ∧ f < 2 ^ 23 ∧ m = magnitude e f := by
  constructor
  · intro h
    obtain hlt | hge := lt_or_ge m (2 ^ 23)
    · exact ⟨0, m, by omega, hlt, rfl⟩
    have hm : m ≠ 0 := by omega
    obtain ⟨k, hlog⟩ := Nat.exists_eq_add_of_le' ((Nat.le_log2 hm).2 hge)
    have hk : k ≤ 253 ∧ 2 ^ k ∣ m := by
      obtain hlt | ⟨hle, hmod⟩ := h
      · obtain rfl : k = 0 := by
          have := (Nat.log2_lt hm).2 hlt
          omega
        exact ⟨by omega, one_dvd m⟩
      · rw [hlog, Nat.add_sub_cancel] at hmod
        exact ⟨by omega, Nat.dvd_of_mod_eq_zero hmod⟩
    obtain ⟨f, hf, rfl⟩ := exists_magnitude_succ hm hlog hk.2
    exact ⟨k + 1, f, by omega, hf, rfl⟩
  · rintro ⟨_ | k, f, he, hf, rfl⟩
    · exact .inl (hf.trans (by decide))
    · rw [log2_magnitude_succ k hf, Nat.add_sub_cancel, magnitude_succ, Nat.mul_mod_left]
      exact .inr ⟨by omega, rfl⟩

/-! Values by sign and magnitude. -/

/-- The value of `m` units of `2^-149` under a sign (R75). -/
def ofUnits (neg : Bool) (m : Nat) : V := (if neg then -1 else 1) * (m : V) * pow2 (-149)

theorem ofUnits_eq_div (neg : Bool) (m : Nat) : ofUnits neg m = ((if neg then -m else m : Int) : V) / (2 ^ 149 : Nat) := by
  rw [ofUnits, pow2_eq_zpow, zpow_neg, div_eq_mul_inv]
  cases neg <;> push_cast <;> norm_cast <;> simp

theorem abs_ofUnits (neg : Bool) (m : Nat) : |ofUnits neg m| = (m : V) / (2 ^ 149 : Nat) := by
  rw [ofUnits_eq_div, abs_div, Nat.abs_cast]
  cases neg <;> simp

theorem ofUnits_neg_iff {neg : Bool} {m : Nat} : ofUnits neg m < 0 ↔ neg = true ∧ m ≠ 0 := by
  have hp := pow2_pos (-149)
  cases neg
  · simp only [ofUnits, Bool.false_eq_true, if_false, false_and, iff_false, not_lt]
    positivity
  · simp [ofUnits, mul_pos_iff_of_pos_right hp, Nat.pos_iff_ne_zero]

theorem den_ofUnits_dvd (neg : Bool) (m : Nat) : (ofUnits neg m).den ∣ 2 ^ 149 := by
  rw [ofUnits_eq_div]
  exact_mod_cast Rat.den_dvd _ ((2 ^ 149 : Nat) : Int)

/-- `units149` is exact on the values it is meant for (R75). -/
theorem cast_units149 {v : V} (h : v.den ∣ 2 ^ 149) : (units149 v : V) = |v| * 2 ^ 149 := by
  have hden : (v.den : V) ≠ 0 := by simp
  have habs : |v| = (v.num.natAbs : V) / v.den := by
    conv_lhs => rw [← Rat.num_div_den v]
    simp [abs_div, Nat.cast_natAbs]
  rw [units149, Nat.cast_div (h.mul_left _) hden, habs]
  push_cast
  ring

theorem units149_ofUnits (neg : Bool) (m : Nat) : units149 (ofUnits neg m) = m := by
  have h := cast_units149 (den_ofUnits_dvd neg m)
  rw [abs_ofUnits, Nat.cast_pow, Nat.cast_ofNat, div_mul_cancel₀ _ (by positivity)] at h
  exact_mod_cast h

theorem ofUnits_units149 {v : V} (h : v.den ∣ 2 ^ 149) : ofUnits (decide (v < 0)) (units149 v) = v := by
  have hp : |v| * 2 ^ 149 * pow2 (-149) = |v| := by
    rw [pow2_eq_zpow, mul_assoc, ← zpow_natCast, ← zpow_add₀ two_ne_zero]
    simp
  rw [ofUnits, mul_assoc, cast_units149 h, hp]
  by_cases hv : v < 0
  · simp [hv, abs_of_neg]
  · simp [hv, abs_of_nonneg (not_lt.1 hv)]

/-! Operand words by their fields. -/

/-- The operand word of a sign, an exponent field and a fraction field (R75). -/
def operandWord (neg : Bool) (e f : Nat) : Word := (if neg then 1#1 else 0#1) ++ BitVec.ofNat 8 e ++ BitVec.ofNat 23 f

theorem toNat_operandWord (neg : Bool) {e f : Nat} (he : e < 256) (hf : f < 2 ^ 23) :
    (operandWord neg e f).toNat = (neg.toNat * 2 ^ 8 + e) * 2 ^ 23 + f := by
  have hs : (if neg then 1#1 else 0#1).toNat = neg.toNat := by cases neg <;> rfl
  rw [operandWord, BitVec.toNat_append, BitVec.toNat_append, hs, BitVec.toNat_ofNat, BitVec.toNat_ofNat,
    Nat.mod_eq_of_lt he, Nat.mod_eq_of_lt hf, ← Nat.shiftLeft_add_eq_or_of_lt (i := 8) he, ← Nat.shiftLeft_add_eq_or_of_lt hf,
    Nat.shiftLeft_eq, Nat.shiftLeft_eq]

/-- The fields of an operand word are read back (R75). -/
theorem fields_operandWord (neg : Bool) {e f : Nat} (he : e < 256) (hf : f < 2 ^ 23) :
    ((operandWord neg e f).extractLsb' 31 1).toNat = neg.toNat ∧ ((operandWord neg e f).extractLsb' 23 8).toNat = e ∧
      ((operandWord neg e f).extractLsb' 0 23).toNat = f := by
  have hn := neg.toNat_lt
  simp only [BitVec.extractLsb'_toNat, toNat_operandWord neg he hf, Nat.shiftRight_eq_div_pow]
  omega

/-- Every word is its three fields (R75). -/
theorem exists_operandWord (w : Word) : ∃ neg e f, e < 256 ∧ f < 2 ^ 23 ∧ w = operandWord neg e f := by
  have hw := w.isLt
  have he : w.toNat / 2 ^ 23 % 256 < 256 := Nat.mod_lt _ (by decide)
  have hf : w.toNat % 2 ^ 23 < 2 ^ 23 := Nat.mod_lt _ (by decide)
  refine ⟨decide (2 ^ 31 ≤ w.toNat), _, _, he, hf, BitVec.eq_of_toNat_eq ?_⟩
  rw [toNat_operandWord _ he hf]
  by_cases hs : 2 ^ 31 ≤ w.toNat <;> simp only [hs, decide_true, decide_false, Bool.toNat_true, Bool.toNat_false] <;> omega

/-- `val(w)` of a word given by its fields (R75). -/
theorem value32_operandWord (neg : Bool) {e f : Nat} (he : e < 256) (hf : f < 2 ^ 23) :
    value32 (operandWord neg e f) = if e = 255 then none else some (ofUnits neg (magnitude e f)) := by
  obtain ⟨hs, he', hf'⟩ := fields_operandWord neg he hf
  have hsign : (operandWord neg e f).extractLsb' 31 1 = 1#1 ↔ neg = true := by
    rw [← BitVec.toNat_inj, hs]
    cases neg <;> decide
  simp only [value32, he', hf', hsign, ofUnits]
  cases e with
  | zero => rfl
  | succ k =>
    have hexp : pow2 ((k + 1 : Nat) - 150 : Int) = (2 : V) ^ k * pow2 (-149) := by
      rw [pow2_eq_zpow, pow2_eq_zpow, ← zpow_natCast, ← zpow_add₀ two_ne_zero]
      push_cast
      ring_nf
    rw [if_neg k.succ_ne_zero, hexp, magnitude_succ, Nat.cast_mul, Nat.cast_pow 2 k, Nat.cast_ofNat]
    ring_nf

/-- `val(w)` for every word, by its fields (R75). -/
theorem value32_eq_some_iff {w : Word} {v : V} :
    value32 w = some v ↔
      ∃ neg e f, e < 255 ∧ f < 2 ^ 23 ∧ w = operandWord neg e f ∧ v = ofUnits neg (magnitude e f) := by
  constructor
  · intro h
    obtain ⟨neg, e, f, he, hf, rfl⟩ := exists_operandWord w
    rw [value32_operandWord neg he hf] at h
    split_ifs at h with h255
    exact ⟨neg, e, f, by omega, hf, rfl, (Option.some.inj h).symm⟩
  · rintro ⟨neg, e, f, he, hf, rfl, rfl⟩
    rw [value32_operandWord neg (by omega) hf, if_neg (by omega)]

/-- An operand word has no value exactly when its exponent field is 255 (R75). -/
theorem value32_eq_none_iff {w : Word} : value32 w = none ↔ (w.extractLsb' 23 8).toNat = 255 := by
  obtain ⟨neg, e, f, he, hf, rfl⟩ := exists_operandWord w
  rw [value32_operandWord neg he hf, (fields_operandWord neg he hf).2.1]
  split_ifs with h255 <;> simp [h255]

/-! The two conversions. -/

/-- A value has a word when its denominator divides `2^149` and its units are the magnitude of some fields (R75). -/
theorem isBinary32_iff {v : V} :
    isBinary32 v = true ↔ v.den ∣ 2 ^ 149 ∧ ∃ e f, e < 255 ∧ f < 2 ^ 23 ∧ units149 v = magnitude e f := by
  rw [← exists_magnitude_iff, Nat.dvd_iff_mod_eq_zero]
  simp [isBinary32]

theorem encodeValue_eq {v : V} {e f : Nat} (hf : f < 2 ^ 23) (hv : units149 v = magnitude e f) :
    encodeValue v = operandWord (decide (v < 0)) e f := by
  rw [encodeValue, hv, exponentField_magnitude e hf, fractionField_magnitude e hf]
  simp [operandWord]

/-- A binary32 value is the value of its word (R75). -/
theorem value32_encodeValue {v : V} (hv : isBinary32 v = true) : value32 (encodeValue v) = some v := by
  obtain ⟨hden, e, f, he, hf, hunits⟩ := isBinary32_iff.1 hv
  refine value32_eq_some_iff.2 ⟨_, e, f, he, hf, encodeValue_eq hf hunits, ?_⟩
  rw [← hunits, ofUnits_units149 hden]

/-- What an operand word carries is a binary32 value (R75). -/
theorem isBinary32_of_value32 {w : Word} {v : V} (h : value32 w = some v) : isBinary32 v = true := by
  obtain ⟨neg, e, f, he, hf, -, rfl⟩ := value32_eq_some_iff.1 h
  exact isBinary32_iff.2 ⟨den_ofUnits_dvd _ _, e, f, he, hf, units149_ofUnits _ _⟩

/-- A value is written as the word it was read from, but for the second word of the value 0 (R75). -/
theorem encodeValue_of_value32 {w : Word} {v : V} (h : value32 w = some v) (hw : w ≠ 0x80000000#32) : encodeValue v = w := by
  obtain ⟨neg, e, f, he, hf, rfl, rfl⟩ := value32_eq_some_iff.1 h
  have hneg : decide (ofUnits neg (magnitude e f) < 0) = neg := by
    rw [Bool.eq_iff_iff, decide_eq_true_iff, ofUnits_neg_iff, and_iff_left_iff_imp]
    rintro rfl hzero
    obtain ⟨rfl, rfl⟩ := magnitude_eq_zero.1 hzero
    exact hw (by decide)
  rw [encodeValue_eq hf (units149_ofUnits _ _), hneg]

end Sys2Proof
end

section
/-! PROOFS. The decoder against the encoder (R70 to R85): which headers a row selects, what a list of words decodes to, which
fault it raises where it decodes to nothing, and the step on both. -/

namespace Sys2Proof

/-! Headers by their fields. -/

/-- The immediates a format's must-be-zero bits allow (R74). -/
def Format.AllowsImm (f : Format) (imm : Nat) : Prop :=
  match f with
  | .z => imm = 0
  | .b => imm < 2
  | .n => True
  | .v1 => imm = 0
  | .v3 => imm = 0
  | .v4 => imm = 0
  | .nv2 => True

theorem opField_and (a b : Word) : opField (a &&& b) = opField a &&& opField b := BitVec.extractLsb'_and ..

theorem immField_and (a b : Word) : immField (a &&& b) = immField a &&& immField b := by
  simp [immField, BitVec.extractLsb'_and]

theorem immField_lt (h : Word) : immField h < 2 ^ 24 := BitVec.isLt _

theorem getLsbD_zero (h : Word) : h.getLsbD 0 = decide (immField h % 2 = 1) := by
  simp [immField, BitVec.getLsbD, Nat.testBit_zero]

theorem word_eq_iff {a b : Word} : a = b ↔ opField a = opField b ∧ immField a = immField b := by
  constructor
  · rintro rfl
    exact ⟨rfl, rfl⟩
  · rintro ⟨hop, himm⟩
    rw [← headerWord_fields a, hop, himm, headerWord_fields]

theorem opField_mask (f : Format) : opField f.mask = BitVec.allOnes 8 := by cases f <;> decide

/-- A format's mask looks at exactly the must-be-zero bits of the immediate (R74). -/
theorem immField_and_mask_eq_zero {f : Format} {n : Nat} (hn : n < 2 ^ 24) : n &&& immField f.mask = 0 ↔ f.AllowsImm n := by
  have hall : immField 0xFFFFFFFF#32 = 2 ^ 24 - 1 := by decide
  have hnone : immField 0xFF000000#32 = 0 := by decide
  have hkeep : n &&& immField 0xFFFFFFFF#32 = n := by rw [hall, Nat.and_two_pow_sub_one_eq_mod, Nat.mod_eq_of_lt hn]
  have hdrop : n &&& immField 0xFF000000#32 = 0 := by rw [hnone, Nat.and_zero]
  cases f with
  | z | v1 | v3 | v4 => exact iff_of_eq (congrArg (· = 0) hkeep)
  | n | nv2 => exact iff_of_true hdrop trivial
  | b =>
    have hhalf : (n &&& immField Format.b.mask) / 2 = n / 2 := by
      rw [Nat.and_div_two, show immField Format.b.mask / 2 = 2 ^ 23 - 1 by decide, Nat.and_two_pow_sub_one_eq_mod,
        Nat.mod_eq_of_lt (by omega)]
    constructor
    · intro hz
      rw [hz] at hhalf
      exact (by omega : n < 2)
    · intro (hlt : n < 2)
      interval_cases n <;> decide

/-- A row selects the headers with its opcode and no must-be-zero bit set (R77). -/
theorem selects_iff {o : Opcode} {h : Word} : o.selects h = true ↔ opField h = o.code ∧ o.format.AllowsImm (immField h) := by
  rw [Opcode.selects, beq_iff_eq, word_eq_iff, opField_and, immField_and, Opcode.mask, opField_mask, BitVec.and_allOnes,
    Opcode.matchWord, opField_headerWord, immField_headerWord, Nat.zero_mod, immField_and_mask_eq_zero (immField_lt h)]

theorem selectOpcode_eq_none_iff {h : Word} : selectOpcode h = none ↔ ∀ o : Opcode, ¬o.selects h = true := by
  simp [selectOpcode, mem_all]

/-! Commands by row, immediate and operands. -/

theorem wellFormed_iff {i : Instr} : i.wellFormed = true ↔ i.imm < 2 ^ 24 ∧ ∀ v ∈ i.operands, isBinary32 v = true := by
  cases i with
  | setFreeze b => cases b <;> simp [Instr.wellFormed, Instr.imm, Instr.operands]
  | _ => simp [Instr.wellFormed, Instr.imm, Instr.operands, fitsImm, and_assoc]

theorem allowsImm_imm (i : Instr) : i.opcode.format.AllowsImm i.imm := by
  cases i with
  | setFreeze b =>
    cases b with
    | false => exact Nat.zero_lt_two
    | true => exact Nat.one_lt_two
  | freqRational | procFm | procAm => trivial
  | _ => rfl

theorem length_operands (i : Instr) : i.operands.length = i.opcode.format.operandWords := by cases i <;> rfl

theorem imm_instr {o : Opcode} {h : Word} (v : Nat → V) (himm : o.format.AllowsImm (immField h)) :
    (o.instr h v).imm = immField h := by
  cases o with
  | setFreeze =>
    have hlt : immField h < 2 := himm
    show (if h.getLsbD 0 then 1 else 0) = immField h
    rw [getLsbD_zero]
    split_ifs with hbit <;> simp only [decide_eq_true_iff] at hbit <;> omega
  | freqRational | procFm | procAm => rfl
  | _ => exact himm.symm

theorem operands_instr {o : Opcode} (h : Word) {vs : List V} (hlen : vs.length = o.format.operandWords) :
    (o.instr h (fun j => vs.getD j 0)).operands = vs := by
  have hrange : (o.instr h (fun j => vs.getD j 0)).operands = (List.range o.format.operandWords).map (fun j => vs.getD j 0) := by
    cases o <;> rfl
  rw [hrange, ← hlen]
  exact List.ext_getElem (by simp) (by simp +contextual)

/-- A command is its row's command with its own immediate and operands (R76, R77). -/
theorem instr_headerWord {i : Instr} (himm : i.imm < 2 ^ 24) :
    i.opcode.instr (headerWord i.opcode.code i.imm) (fun j => i.operands.getD j 0) = i := by
  have himm' : immField (headerWord i.opcode.code i.imm) = i.imm := by rw [immField_headerWord, Nat.mod_eq_of_lt himm]
  cases i with
  | setFreeze b => cases b <;> rfl
  | freqRational n spread fine => exact congrArg (Instr.freqRational · spread fine) himm'
  | procFm n => exact congrArg Instr.procFm himm'
  | procAm n => exact congrArg Instr.procAm himm'
  | _ => rfl

/-! Lists of operand words. -/

theorem values32_eq_some_iff {ws : List Word} {vs : List V} :
    values32 ws = some vs ↔ List.Forall₂ (fun w v => value32 w = some v) ws vs := by
  induction ws generalizing vs with
  | nil => simp [values32, eq_comm]
  | cons w ws ih =>
    rw [values32, List.forall₂_cons_left_iff]
    cases hw : value32 w with
    | none => simp
    | some v =>
      cases hws : values32 ws with
      | none => simp [← ih, hws]
      | some us =>
        simp only [← ih, hws, Option.some.injEq]
        constructor
        · rintro rfl
          exact ⟨v, us, rfl, rfl, rfl⟩
        · rintro ⟨v', us', rfl, rfl, rfl⟩
          rfl

theorem length_of_values32 {ws : List Word} {vs : List V} (h : values32 ws = some vs) : ws.length = vs.length :=
  (values32_eq_some_iff.1 h).length_eq

theorem values32_eq_none_iff {ws : List Word} : values32 ws = none ↔ ∃ w ∈ ws, value32 w = none := by
  induction ws with
  | nil => simp [values32]
  | cons w ws ih =>
    rw [values32]
    cases hw : value32 w <;> cases hws : values32 ws <;> simp [hw, ← ih, hws]

/-- Operand words carry binary32 values (R75). -/
theorem isBinary32_of_mem_values32 {ws : List Word} {vs : List V} (h : values32 ws = some vs) :
    ∀ v ∈ vs, isBinary32 v = true := by
  have hvals : List.Forall₂ (fun v w => value32 w = some v) vs ws := (values32_eq_some_iff.1 h).flip
  exact ((List.forall₂_and_left _ _).1 (hvals.imp fun _ _ hw => ⟨isBinary32_of_value32 hw, hw⟩)).1

/-- Operand words are the words of their values, but for the second word of the value 0 (R75). -/
theorem map_encodeValue_of_values32 {ws : List Word} {vs : List V} (h : values32 ws = some vs) (hzero : 0x80000000#32 ∉ ws) :
    vs.map encodeValue = ws := by
  have hvals := values32_eq_some_iff.1 h
  clear h
  induction hvals with
  | nil => rfl
  | cons hw _ ih =>
    rw [List.mem_cons, not_or] at hzero
    rw [List.map_cons, encodeValue_of_value32 hw (Ne.symm hzero.1), ih hzero.2]

/-! What a list of words decodes to. -/

theorem decode_of_illegal {h : Word} (ws : List Word) (hn : ∀ o : Opcode, ¬o.selects h = true) :
    decode (h :: ws) = .error .illegalCommand := by
  rw [decode, selectOpcode_eq_none_iff.2 hn]

/-- The decoder on a legal header: its length first, then its operands (R78, R81). -/
theorem decode_of_selects {o : Opcode} {h : Word} (ws : List Word) (hs : o.selects h = true) :
    decode (h :: ws) =
      if ws.length < o.format.operandWords then .error .truncatedCommand
      else (values32 (ws.take o.format.operandWords)).elim (.error .illegalOperand)
        fun vs => .ok (o.instr h (fun j => vs.getD j 0), ws.drop o.format.operandWords) := by
  simp only [decode, selectOpcode_of_selects hs]
  cases values32 (ws.take o.format.operandWords) <;> rfl

theorem decode_eq_illegalCommand_iff {h : Word} {ws : List Word} :
    decode (h :: ws) = .error .illegalCommand ↔ ∀ o : Opcode, ¬o.selects h = true := by
  refine ⟨fun hd o hs => ?_, decode_of_illegal ws⟩
  rw [decode_of_selects ws hs] at hd
  split_ifs at hd
  · cases hd
  · cases hv : values32 (ws.take o.format.operandWords) <;> simp [hv] at hd

theorem decode_eq_truncatedCommand_iff {o : Opcode} {h : Word} {ws : List Word} (hs : o.selects h = true) :
    decode (h :: ws) = .error .truncatedCommand ↔ ws.length < o.format.operandWords := by
  rw [decode_of_selects ws hs]
  split_ifs with hlen
  · simp [hlen]
  · cases hv : values32 (ws.take o.format.operandWords) <;> simp [hlen]

theorem decode_eq_illegalOperand_iff {o : Opcode} {h : Word} {ws : List Word} (hs : o.selects h = true)
    (hlen : o.format.operandWords ≤ ws.length) :
    decode (h :: ws) = .error .illegalOperand ↔ values32 (ws.take o.format.operandWords) = none := by
  rw [decode_of_selects ws hs, if_neg hlen.not_gt]
  cases hv : values32 (ws.take o.format.operandWords) <;> simp

/-- A list of words decodes to a command exactly when it is a legal header, the words of its operands, and the words left
over (R81). -/
theorem decode_eq_ok_iff {ws rest : List Word} {i : Instr} :
    decode ws = .ok (i, rest) ↔ ∃ (o : Opcode) (h : Word) (args : List Word) (vs : List V), o.selects h = true ∧
      args.length = o.format.operandWords ∧ values32 args = some vs ∧ ws = h :: (args ++ rest) ∧
      i = o.instr h (fun j => vs.getD j 0) := by
  constructor
  · intro hd
    cases ws with
    | nil => cases hd
    | cons h ws =>
      by_cases hn : ∀ o : Opcode, ¬o.selects h = true
      · rw [decode_of_illegal ws hn] at hd
        cases hd
      obtain ⟨o, hs⟩ := not_forall_not.1 hn
      rw [decode_of_selects ws hs] at hd
      split_ifs at hd with hlen
      cases hv : values32 (ws.take o.format.operandWords) with
      | none => simp [hv] at hd
      | some vs =>
        simp only [hv, Option.elim_some, Except.ok.injEq, Prod.mk.injEq] at hd
        obtain ⟨rfl, rfl⟩ := hd
        exact ⟨o, h, _, vs, hs, List.length_take_of_le (by omega), hv, by rw [List.take_append_drop], rfl⟩
  · rintro ⟨o, h, args, vs, hs, hlen, hv, rfl, rfl⟩
    rw [decode_of_selects _ hs, ← hlen, if_neg (by simp), List.take_left, List.drop_left, hv]
    rfl

/-- Words after a command's own are left over, whatever they are (R81). -/
theorem decode_append {ws rest : List Word} {i : Instr} (h : decode ws = .ok (i, rest)) (more : List Word) :
    decode (ws ++ more) = .ok (i, rest ++ more) := by
  obtain ⟨o, w, args, vs, hs, hlen, hv, rfl, rfl⟩ := decode_eq_ok_iff.1 h
  exact decode_eq_ok_iff.2 ⟨o, w, args, vs, hs, hlen, hv, by simp, rfl⟩

end Sys2Proof

namespace Sys2Proof.Machine

/-! The step on what the decoder answers. -/

theorem step_of_decode_ok {s : State} {i : Instr} {rest : List Word} (h : decode (s.cs.drop s.cp) = .ok (i, rest)) :
    step s = exec i s := by
  have hend : s.cp ≠ s.cs.length := by
    intro he
    rw [he, List.drop_length] at h
    cases h
  simp [step, fetch, hend, h]

theorem step_of_decode_error {s : State} {e : DecodeError} (hend : s.cp ≠ s.cs.length)
    (h : decode (s.cs.drop s.cp) = .error e) : step s = .fault (decodeFault e s.cp) := by
  simp [step, fetch, hend, h]

theorem step_of_end {s : State} (h : s.cp = s.cs.length) : step s = .next s := by
  simp [step, fetch, h]

theorem drop_overlay (cs : List Word) (start : Nat) (ws : List Word) :
    (overlay cs start ws).drop start = ws ++ cs.drop (start + ws.length) := by
  have hlen : (cs.take start ++ List.replicate (start - cs.length) 0#32).length = start := by
    rw [List.length_append, List.length_take, List.length_replicate]
    omega
  rw [overlay, List.append_assoc _ ws, List.drop_left' hlen]

theorem decodeTableWord_eq_some_iff {nbits w : Nat} {i : Instr} :
    decodeTableWord nbits w = some i ↔ ∃ rest, decode (tableWords nbits w) = .ok (i, rest) := by
  unfold decodeTableWord
  cases decode (tableWords nbits w) with
  | error e => simp
  | ok x => simp [Prod.ext_iff]

/-! The obligations. -/

/-- Settles O2: the header selects the command's own row, and each operand word has its operand as its value. -/
theorem decodeOfEncodeIsTheCommand : Obligations.DecodeOfEncodeIsTheCommand := by
  intro i rest hwf
  obtain ⟨himm, hops⟩ := wellFormed_iff.1 hwf
  refine decode_eq_ok_iff.2 ⟨i.opcode, _, i.operands.map encodeValue, i.operands, ?_, ?_, ?_, rfl,
    (instr_headerWord himm).symm⟩
  · rw [selects_iff, opField_headerWord, immField_headerWord, Nat.mod_eq_of_lt himm]
    exact ⟨rfl, allowsImm_imm i⟩
  · rw [List.length_map, length_operands]
  · rw [values32_eq_some_iff, List.forall₂_map_left_iff, List.forall₂_same]
    exact fun v hv => value32_encodeValue (hops v hv)

/-- Settles O3: the header is its two fields, and each operand's word is its encoding. -/
theorem encodeOfDecodeIsTheWords : Obligations.EncodeOfDecodeIsTheWords := by
  intro ws i rest hd hzero
  obtain ⟨o, h, args, vs, hs, hlen, hv, rfl, rfl⟩ := decode_eq_ok_iff.1 hd
  obtain ⟨hop, himm⟩ := selects_iff.1 hs
  have hvs : vs.length = o.format.operandWords := length_of_values32 hv ▸ hlen
  have hheader : headerWord o.code (immField h) = h := by rw [← hop, headerWord_fields]
  rw [Instr.words, opcode_instr, ← hlen, Nat.add_comm, List.take_succ_cons, List.take_left] at hzero
  rw [encode, opcode_instr, imm_instr _ himm, operands_instr h hvs, hheader,
    map_encodeValue_of_values32 hv fun hmem => hzero (List.mem_cons_of_mem _ hmem), List.cons_append]

/-- Settles O4: the immediate is a 24-bit field, and each operand is the value of its word. -/
theorem decodedCommandsAreWellFormed : Obligations.DecodedCommandsAreWellFormed := by
  intro ws i rest hd
  have hle := words_le_of_decode hd
  obtain ⟨o, h, args, vs, hs, hlen, hv, rfl, rfl⟩ := decode_eq_ok_iff.1 hd
  obtain ⟨-, himm⟩ := selects_iff.1 hs
  refine ⟨?_, hle, ?_⟩
  · rw [wellFormed_iff, imm_instr _ himm, operands_instr h (length_of_values32 hv ▸ hlen)]
    exact ⟨immField_lt h, isBinary32_of_mem_values32 hv⟩
  · rw [Instr.words, opcode_instr, ← hlen, Nat.add_comm, List.drop_succ_cons, List.drop_left]

/-- Settles O5: a header is legal exactly when its row selects it, and then the decoder tests the length first and the operands
after it. -/
theorem eachBadEncodingHasItsDecodeFault : Obligations.EachBadEncodingHasItsDecodeFault := by
  unfold Obligations.EachBadEncodingHasItsDecodeFault
  intro legal
  have hlegal : ∀ h o, legal h o ↔ o.selects h = true := fun h o => selects_iff.symm
  simp only [hlegal]
  refine ⟨fun h rest => decode_eq_illegalCommand_iff, fun rest => decode_of_illegal rest ?_,
    fun rest => decode_of_illegal rest ?_, fun h o rest => decode_eq_truncatedCommand_iff,
    fun h o rest hs hlen => ?_, fun s e hcp he => ?_⟩
  · exact fun o => by cases o <;> decide
  · exact fun o => by cases o <;> decide
  · rw [decode_eq_illegalOperand_iff hs hlen, values32_eq_none_iff]
    simp only [value32_eq_none_iff]
  · rw [step_of_decode_error hcp.ne he]
    cases e <;> rfl

/-- Settles O1: each command is well formed and has the words of R85, so O2 gives the other direction. -/
theorem specWordsDecode : Obligations.SpecWordsDecode := by
  intro i ws hmem
  obtain ⟨hwf, rfl⟩ : i.wellFormed = true ∧ encode i = ws :=
    (by decide +kernel : ∀ x ∈ _, Instr.wellFormed x.1 = true ∧ encode x.1 = x.2) (i, ws) hmem
  exact ⟨List.append_nil (encode i) ▸ decodeOfEncodeIsTheCommand i [] hwf, rfl⟩

/-- Settles O6: the definition's formulas, with the sign and the powers in the library's terms. -/
theorem operandWordsHaveTheirExactValue : Obligations.OperandWordsHaveTheirExactValue := by
  intro w s e f
  have hsign : (if w.extractLsb' 31 1 = 1#1 then -1 else 1 : V) = (-1) ^ (w.extractLsb' 31 1).toNat := by
    obtain hs | hs := BitVec.eq_zero_or_eq_one (w.extractLsb' 31 1) <;> rw [hs] <;> simp
  unfold value32
  simp only [pow2_eq_zpow, hsign]
  refine ⟨fun he => if_pos he, fun he => ?_, fun h255 h0 => ?_⟩
  · rw [if_neg (by omega), if_pos he]
  · rw [if_neg h255, if_neg h0]
    push_cast
    rfl

/-- Settles O7: the fetch decodes the words from the cursor on, and a decoded command is well formed by O4. -/
theorem stepRunsTheCommandAtTheCursor : Obligations.StepRunsTheCommandAtTheCursor :=
  ⟨fun _ i rest h => ⟨(decodedCommandsAreWellFormed _ i rest h).1, step_of_decode_ok h⟩,
    fun _ _ => step_of_decode_error, fun _ => step_of_end⟩

/-- Settles O59: the placed words head the words from the cursor on. -/
theorem placedWordsAreFetchedNext : Obligations.PlacedWordsAreFetchedNext := by
  intro s nbits w i h
  obtain ⟨rest, hd⟩ := decodeTableWord_eq_some_iff.1 h
  apply step_of_decode_ok (rest := rest ++ s.cs.drop (s.cp + (tableWords nbits w).length))
  rw [← decode_append hd, ← drop_overlay]
  rfl

end Sys2Proof.Machine
end

section
/-! PROOFS. The frequency commands: the gate, the increments each one writes, its faults, and what a repeat does (R100 to R112,
R115 to R125, R246). -/

namespace Sys2Proof.Machine

/-! The gate, and what a traversal leaves in a voice. -/

theorem candidate_iff {fz : Bool} {j : Fin 6} : candidate fz j = true ↔ ¬(fz = true ∧ j.val % 2 = 0) := by
  cases fz <;> simp [candidate]

theorem candidate_false (j : Fin 6) : candidate false j = true := rfl

theorem candidate_true {j : Fin 6} : candidate true j = true ↔ j.val % 2 = 1 := by
  simp [candidate]

/-- A voice the gate lets through gets the increment computed for it, if any; every other voice keeps its own. -/
theorem assigned_eq {fz : Bool} {f : Fin 6 → Except Fault (Option V)} (x : Six (Reg V)) {j : Fin 6} {o : Option V}
    (h : candidate fz j = true → f j = .ok o) :
    assigned fz f x j = if candidate fz j then o.elim (x.get j) .val else x.get j := by
  unfold assigned
  by_cases hg : fz = true ∧ j.val % 2 = 0
  · rw [if_pos hg, if_neg (mt candidate_iff.mp (not_not.mpr hg))]
  · rw [if_neg hg, if_pos (candidate_iff.mpr hg), h (candidate_iff.mpr hg)]
    cases o <;> rfl

/-- A traversal leaves a voice its increment or writes what it computed for it. -/
theorem assigned_kept_or_computed (fz : Bool) (f : Fin 6 → Except Fault (Option V)) (x : Six (Reg V)) (j : Fin 6) :
    assigned fz f x j = x.get j ∨ ∃ v, f j = .ok (some v) ∧ assigned fz f x j = .val v := by
  unfold assigned
  split_ifs with hg
  · exact .inl rfl
  · match f j with
    | .ok (some v) => exact .inr ⟨v, rfl, rfl⟩
    | .ok none => exact .inl rfl
    | .error e => exact .inl rfl

/-- After a frequency command each increment is as before or is what the command computes for that voice. -/
theorem inc_kept_or_computed {i : Instr} (hi : isFrequency i = true) {s t : State} (h : exec i s = .next t) (j : Fin 6) :
    t.inc.get j = s.inc.get j ∨ ∃ v, voiceIncrement Config.cfg s.cp i j = .ok (some v) ∧ t.inc.get j = .val v := by
  obtain ⟨fz, x, -, -, hx, rfl⟩ := (exec_frequency_next hi).mp h
  rw [State.advance_inc, State.setInc_inc, assignVoices_ok hx]
  exact assigned_kept_or_computed ..

/-! When a command completes, and how it faults. -/

/-- A frequency command completes where its operands pass and no candidate voice faults, and writes the candidates. -/
theorem exec_frequency_completes {i : Instr} (hi : isFrequency i = true) {s : State} {fz : Bool}
    (hz : s.freeze = .val fz) (hc : frequencyCheck s.cp i = .ok ()) (g : Fin 6 → Option V)
    (hg : ∀ j, candidate fz j = true → voiceIncrement Config.cfg s.cp i j = .ok (g j)) :
    exec i s = .next { s with
      inc := Six.ofFn fun j => if candidate fz j then (g j).elim (s.inc.get j) .val else s.inc.get j
      cp := s.cp + i.words } := by
  obtain ⟨x, hx⟩ := assignVoices_answers descending s.inc fun j hj => ⟨g j, hg j (candidate_iff.mpr hj)⟩
  have hx' : x = Six.ofFn fun j => if candidate fz j then (g j).elim (s.inc.get j) .val else s.inc.get j :=
    Six.ext_get fun j => by rw [assignVoices_ok hx, assigned_eq _ (hg j), Six.get_ofFn]
  exact (exec_frequency_next hi).mpr ⟨fz, x, hz, hc, hx, by rw [hx']; rfl⟩

theorem exec_frequency_undef {i : Instr} (hi : isFrequency i = true) {s : State} (hz : s.freeze = .undef) :
    exec i s = .fault (.unwrittenRead s.cp) := by
  rw [exec_frequency hi, hz]
  rfl

/-- Once FREEZE is written the fault is the operand check's or, where the operands pass, the traversal's (R216). -/
theorem exec_frequency_fault {i : Instr} (hi : isFrequency i = true) {s : State} {fz : Bool} (hz : s.freeze = .val fz)
    {e : Fault} : exec i s = .fault e ↔ frequencyCheck s.cp i = .error e ∨ (frequencyCheck s.cp i = .ok () ∧
      assignVoices fz (voiceIncrement Config.cfg s.cp i) descending s.inc = .error e) := by
  rw [exec_frequency hi, hz]
  cases hc : frequencyCheck s.cp i with
  | error e' => simp [bind, Except.bind, finish]
  | ok u =>
    cases hx : assignVoices fz (voiceIncrement Config.cfg s.cp i) descending s.inc with
    | error e' => simp [bind, Except.bind, finish, hx]
    | ok x => simp [bind, Except.bind, pure, Except.pure, finish, hx]

/-- A traversal stops with `e` where a candidate voice does and none stops otherwise. -/
theorem assignVoices_stops {fz : Bool} {f : Fin 6 → Except Fault (Option V)} {e : Fault} (x : Six (Reg V)) {j : Fin 6}
    (hj : candidate fz j = true) (hf : f j = .error e) (honly : ∀ k e', f k = .error e' → e' = e) :
    assignVoices fz f descending x = .error e := by
  cases hx : assignVoices fz f descending x with
  | ok y =>
    obtain ⟨o, ho⟩ := voice_of_assignVoices_ok hx (mem_descending j) (candidate_iff.mp hj)
    cases hf.symm.trans ho
  | error e' =>
    obtain ⟨k, -, hk⟩ := assignVoices_error hx
    rw [honly k e' hk]

/-! The operands each command stops on. -/

theorem checkChord_outside {cp : Nat} {chord : V} (h : ⌊chord * 12⌋ < 0 ∨ 10 < ⌊chord * 12⌋) :
    checkChord cp chord = .error (.chordIndex cp) := if_pos h

theorem checkRational_nonpositive {cp n : Nat} {spread : V} (hn : n ≠ 0) (hs : spread ≤ 0) :
    checkRational cp n spread = .error (.ratioNonpositive cp) := by
  rw [checkRational, if_neg hn, if_pos hs]
  rfl

/-- `SQRT_DOMAIN` comes from no operand check. -/
theorem frequencyCheck_ne_sqrtDomain {cp cp' : Nat} {i : Instr} : frequencyCheck cp i ≠ .error (.sqrtDomain cp') := by
  cases i with
  | freqChord note spread fine chord =>
    rw [frequencyCheck, checkChord, raise]
    split_ifs <;> simp [Except.map]
  | freqRational n spread fine =>
    rw [frequencyCheck, checkRational, raise, raise]
    split_ifs <;> simp
  | _ => simp [frequencyCheck]

theorem detuneRadicand_eq (spread detune : V) (j : Fin 6) :
    detuneRadicand spread detune j = 1 + detune * ((j.val : V) * spread) ^ 2 := by
  rw [detuneRadicand]
  ring

theorem voiceIncrement_harmonic_ok {c : Config} {cp : Nat} {base spread fine detune : V} {j : Fin 6}
    (h : 0 ≤ 1 + detune * ((j.val : V) * spread) ^ 2) :
    voiceIncrement c cp (.freqHarmonic base spread fine detune) j = .ok (some (harmonicIncrement (baseIncrement c fine)
      (harmonicNumber base spread j) (c.sqrt (1 + detune * ((j.val : V) * spread) ^ 2)))) := by
  rw [voiceIncrement, harmonicVoice, detuneRadicand_eq, checkSqrt_ok.mpr ⟨h, rfl⟩]
  rfl

/-- The one fault of a voice of FREQ_HARMONIC is a negative radicand's (R121). -/
theorem voiceIncrement_harmonic_error {c : Config} {cp : Nat} {base spread fine detune : V} {j : Fin 6} {e : Fault} :
    voiceIncrement c cp (.freqHarmonic base spread fine detune) j = .error e ↔
      1 + detune * ((j.val : V) * spread) ^ 2 < 0 ∧ e = .sqrtDomain cp := by
  by_cases h : 1 + detune * ((j.val : V) * spread) ^ 2 < 0
  · have hroot : checkSqrt c cp (1 + detune * ((j.val : V) * spread) ^ 2) = .error (.sqrtDomain cp) := if_pos h
    rw [voiceIncrement, harmonicVoice, detuneRadicand_eq, hroot]
    simp [h, bind, Except.bind, Except.map, eq_comm]
  · simp [voiceIncrement_harmonic_ok (not_lt.mp h), h]

/-- Only FREQ_HARMONIC computes a voice that can fault. -/
theorem eq_freqHarmonic_of_voiceIncrement_error {c : Config} {cp : Nat} {i : Instr} {j : Fin 6} {e : Fault}
    (h : voiceIncrement c cp i j = .error e) : ∃ base spread fine detune, i = .freqHarmonic base spread fine detune := by
  cases i with
  | freqHarmonic base spread fine detune => exact ⟨_, _, _, _, rfl⟩
  | _ => cases h

/-- Only FREQ_CHORD passes over a candidate voice (R111). -/
theorem voiceIncrement_some {c : Config} {cp : Nat} {i : Instr} (hi : isFrequency i = true) {j : Fin 6} {o : Option V}
    (h : voiceIncrement c cp i j = .ok o) : (∃ note spread fine chord, i = .freqChord note spread fine chord) ∨
      ∃ v, o = some v := by
  cases i with
  | freqFree note spread fine => cases h; exact .inr ⟨_, rfl⟩
  | freqChord note spread fine chord => exact .inl ⟨_, _, _, _, rfl⟩
  | freqRational n spread fine => cases h; exact .inr ⟨_, rfl⟩
  | freqHarmonic base spread fine detune =>
    obtain ⟨v, -, rfl⟩ := map_ok.mp h
    exact .inr ⟨v, rfl⟩
  | _ => cases hi

/-- A voice of FREQ_CHORD is written exactly inside the closed guard window (R111). -/
theorem chordIncrement_eq_some {c : Config} {row : Nat} {note spread fine v : V} {j : Fin 6} :
    chordIncrement c row note spread fine j = some v ↔
      (-64 ≤ chordArgument c row note spread fine j ∧ chordArgument c row note spread fine j ≤ 64) ∧
        v = c.fratio (chordArgument c row note spread fine j) * c.refFreq := by
  rw [chordIncrement, insideGuard, ← Bool.decide_and]
  split_ifs with h
  · simp [of_decide_eq_true h, eq_comm]
  · simp [of_decide_eq_false (Bool.eq_false_of_not_eq_true h)]

theorem chordIncrement_elim (c : Config) (row : Nat) (note spread fine : V) (j : Fin 6) (r : Reg V) :
    (chordIncrement c row note spread fine j).elim r .val =
      if -64 ≤ chordArgument c row note spread fine j ∧ chordArgument c row note spread fine j ≤ 64 then
        .val (c.fratio (chordArgument c row note spread fine j) * c.refFreq)
      else r := by
  split_ifs with h
  · rw [chordIncrement_eq_some.mpr ⟨h, rfl⟩]
    rfl
  · rw [Option.eq_none_iff_forall_ne_some.mpr fun v hv => h (chordIncrement_eq_some.mp hv).1]
    rfl

/-! The obligations. -/

/-- Settles O19: FREEZE is read first, a frozen voice is passed over before its increment is computed, and of the
computed voices only FREQ_CHORD's may be without an increment and only FREQ_HARMONIC's may fault. -/
theorem freezeGatesTheEvenVoices : Obligations.FreezeGatesTheEvenVoices := by
  refine ⟨fun i s hi hz => exec_frequency_undef hi hz, fun i s t hi hz h j hj => ?_, fun i s t hi hz h => ?_,
    fun i s f hi hz h hf => ?_⟩
  · obtain ⟨fz, x, hfz, -, hx, rfl⟩ := (exec_frequency_next hi).mp h
    cases hz.symm.trans hfz
    rw [State.advance_inc, State.setInc_inc, assignVoices_ok hx, assigned, if_pos ⟨rfl, hj⟩]
  · rw [or_iff_not_imp_left]
    intro hchord j
    obtain ⟨fz, x, hfz, -, hx, rfl⟩ := (exec_frequency_next hi).mp h
    cases hz.symm.trans hfz
    obtain ⟨o, ho⟩ := voice_of_assignVoices_ok hx (mem_descending j) (candidate_iff.mp (candidate_false j))
    obtain ⟨v, rfl⟩ := (voiceIncrement_some hi ho).resolve_left hchord
    exact ⟨v, by rw [State.advance_inc, State.setInc_inc, assignVoices_ok hx, assigned_eq _ fun _ => ho]; rfl⟩
  · subst hf
    obtain ⟨-, hx⟩ := ((exec_frequency_fault hi hz).mp h).resolve_left frequencyCheck_ne_sqrtDomain
    obtain ⟨j, hj, he⟩ := assignVoices_error hx
    obtain ⟨base, spread, fine, detune, rfl⟩ := eq_freqHarmonic_of_voiceIncrement_error he
    exact ⟨base, spread, fine, detune, rfl, j, candidate_true.mp (candidate_iff.mpr hj),
      (voiceIncrement_harmonic_error.mp he).1⟩

/-- Settles O20: FREQ_FREE checks no operand and its voices cannot fault. -/
theorem freqFreeWritesItsIncrements : Obligations.FreqFreeWritesItsIncrements := fun note spread fine _ _ hz =>
  exec_frequency_completes rfl hz rfl (fun j => some (freeIncrement Config.cfg note spread fine j)) fun _ _ => rfl

/-- Settles O21: the row passes its check, and the guard window decides which candidates get an increment. -/
theorem freqChordWritesItsIncrements : Obligations.FreqChordWritesItsIncrements := by
  intro note spread fine chord s fz hz h0 h10 T n o arg
  have hc : frequencyCheck s.cp (.freqChord note spread fine chord) = .ok () :=
    map_ok.mpr ⟨_, checkChord_ok.mpr ⟨⟨h0, h10⟩, rfl⟩, rfl⟩
  rw [exec_frequency_completes rfl hz hc (chordIncrement Config.cfg (chordIndex chord).toNat note spread fine)
    fun _ _ => rfl]
  simp only [chordIncrement_elim, ite_and]
  rfl

/-- Settles O22: the operands pass the checks, and the model's powers are the library's. -/
theorem freqRationalWritesItsIncrements : Obligations.FreqRationalWritesItsIncrements := by
  intro n spread fine s fz hz hn hs
  have hc : frequencyCheck s.cp (.freqRational n spread fine) = .ok () := checkRational_ok.mpr ⟨hn, hs⟩
  rw [exec_frequency_completes rfl hz hc
    (fun j => some (rationalIncrement Config.cfg n spread fine j)) fun _ _ => rfl]
  simp only [rationalIncrement, approximatedRatio, powV_eq_pow, pow2_eq_zpow]
  rfl

/-- Settles O23: no candidate's root faults, and the two branches are those of the definition. -/
theorem freqHarmonicWritesItsIncrements : Obligations.FreqHarmonicWritesItsIncrements := by
  intro base spread fine detune s fz hz hr fund h w
  rw [exec_frequency_completes rfl hz rfl
    (fun j => some (harmonicIncrement fund (h j) (w j))) fun j hj => voiceIncrement_harmonic_ok (hr j hj)]
  simp only [harmonicIncrement, zero_sub]
  rfl

/-- Settles O24: the operand checks come before the voices, and a voice can stop FREQ_HARMONIC with `SQRT_DOMAIN` alone. -/
theorem frequencyCommandsFaultOnTheirOperands : Obligations.FrequencyCommandsFaultOnTheirOperands := by
  intro s fz hz
  refine ⟨fun note spread fine chord h => ?_, fun spread fine => ?_, fun n spread fine hn hs => ?_,
    fun base spread fine detune ⟨j, hj, hr⟩ => ?_⟩
  · exact (exec_frequency_fault rfl hz).mpr (.inl (by rw [frequencyCheck, checkChord_outside h]; rfl))
  · exact (exec_frequency_fault rfl hz).mpr (.inl rfl)
  · exact (exec_frequency_fault rfl hz).mpr (.inl (checkRational_nonpositive hn hs))
  · exact (exec_frequency_fault rfl hz).mpr (.inr ⟨rfl, assignVoices_stops _ hj
      (voiceIncrement_harmonic_error.mpr ⟨hr, rfl⟩) fun k e' hk => (voiceIncrement_harmonic_error.mp hk).2⟩)

/-- Settles O26: the repeat starts from a state with the same FREEZE, so by O27 each voice gets the increment it has or
keeps it. -/
theorem repeatingAFrequencyCommandChangesNothing : Obligations.RepeatingAFrequencyCommandChangesNothing := by
  intro i s t hi h
  obtain ⟨-, -, -, hz, -⟩ := frequencyCommandsFrame i s t hi h
  obtain ⟨u, hu, hinc⟩ := frequencyCommandsReadOnlyFreeze i s t t hi hz h
  exact ⟨u, hu, Six.ext_get fun j => (hinc j).elim id And.right⟩

/-- Settles O29: what FREQ_CHORD computes for a voice is the increment of an argument inside the window. -/
theorem chordIncrementsStayInTheGuardBand : Obligations.ChordIncrementsStayInTheGuardBand := by
  intro note spread fine chord s t j h
  refine (inc_kept_or_computed rfl h j).imp_right fun ⟨v, hv, ht⟩ => ?_
  obtain ⟨⟨hlo, hhi⟩, rfl⟩ := chordIncrement_eq_some.mp (Except.ok.inj hv)
  exact ⟨_, hlo, hhi, ht⟩

end Sys2Proof.Machine
end

section
/-! PROOFS. The searches of the frequency assigner: the nearest entry of a row, and the folding of a ratio (R105, R106, R115,
R124). -/

namespace Sys2Proof.Machine

/-! The nearest entry of a row. -/

/-- The search's index is the least whose midpoint lies above the query (R105). -/
theorem nearest_spec (T : Nat → V) (q : V) :
    (nearest T q < 5 → q < (T (nearest T q) + T (nearest T q + 1)) / 2) ∧
      ∀ j, j < nearest T q → ¬q < (T j + T (j + 1)) / 2 := by
  unfold nearest
  split_ifs with h0 h1 h2 h3 h4
  · exact ⟨fun _ => h0, fun j hj => absurd hj (Nat.not_lt_zero j)⟩
  · exact ⟨fun _ => h1, fun j hj => by interval_cases j; assumption⟩
  · exact ⟨fun _ => h2, fun j hj => by interval_cases j <;> assumption⟩
  · exact ⟨fun _ => h3, fun j hj => by interval_cases j <;> assumption⟩
  · exact ⟨fun _ => h4, fun j hj => by interval_cases j <;> assumption⟩
  · exact ⟨fun h => absurd h (lt_irrefl 5), fun j hj => by interval_cases j <;> assumption⟩

/-- There is only one such index. -/
theorem eq_nearest {T : Nat → V} {q : V} {k : Nat} (hk : k ≤ 5) (habove : k < 5 → q < (T k + T (k + 1)) / 2)
    (hbelow : ∀ j, j < k → ¬q < (T j + T (j + 1)) / 2) : k = nearest T q := by
  obtain ⟨hn, hleast⟩ := nearest_spec T q
  have hn5 : nearest T q ≤ 5 := Nat.le_of_lt_succ (nearest_lt T q)
  apply le_antisymm
  · by_contra hlt
    exact hbelow _ (not_le.mp hlt) (hn (by omega))
  · by_contra hlt
    exact hleast _ (not_le.mp hlt) (habove (by omega))

section
variable {T : Nat → V} (hT : ∀ j, j < 5 → T j ≤ T (j + 1))
include hT

theorem row_le {i j : Nat} (hij : i ≤ j) (hj : j ≤ 5) : T i ≤ T j := by
  induction j, hij using Nat.le_induction with
  | base => exact le_rfl
  | succ j _ ih => exact (ih (by omega)).trans (hT j (by omega))

/-- An entry before the nearest one is at least as far below the query as that one is above it. -/
theorem nearest_sub_le_of_lt {q : V} {j : Nat} (hj : j < nearest T q) : T (nearest T q) - q ≤ q - T j := by
  have hn := nearest_lt T q
  have hmid := (nearest_spec T q).2 (nearest T q - 1) (by omega)
  rw [Nat.sub_add_cancel (by omega)] at hmid
  linarith [row_le hT (show j ≤ nearest T q - 1 by omega) (by omega)]

/-- An entry after the nearest one is farther above the query than that one is below it. -/
theorem sub_nearest_lt_of_lt {q : V} {j : Nat} (hj : nearest T q < j) (hj5 : j ≤ 5) : q - T (nearest T q) < T j - q := by
  have hmid := (nearest_spec T q).1 (by omega)
  linarith [row_le hT (Nat.succ_le_of_lt hj) hj5]

theorem nearest_minimises (q : V) {j : Nat} (hj : j < 6) : |T (nearest T q) - q| ≤ |T j - q| := by
  have hn := nearest_lt T q
  obtain hlt | heq | hgt := lt_trichotomy j (nearest T q)
  · have hle := row_le hT hlt.le (by omega)
    exact abs_le.mpr ⟨by linarith [neg_le_abs (T j - q)], by linarith [nearest_sub_le_of_lt hT hlt, neg_le_abs (T j - q)]⟩
  · rw [heq]
  · have hle := row_le hT hgt.le (by omega)
    exact abs_le.mpr ⟨by linarith [sub_nearest_lt_of_lt hT hgt (by omega), le_abs_self (T j - q)],
      by linarith [le_abs_self (T j - q)]⟩

/-- Of two equally near entries the search takes the higher (R105). -/
theorem le_nearest_of_equally_near {q : V} {j : Nat} (hj : j < 6) (h : |T j - q| = |T (nearest T q) - q|) :
    T j ≤ T (nearest T q) := by
  obtain hle | hgt := le_or_gt j (nearest T q)
  · exact row_le hT hle (Nat.le_of_lt_succ (nearest_lt T q))
  · have hfar := sub_nearest_lt_of_lt hT hgt (by omega)
    have habs : T j - q ≤ |T (nearest T q) - q| := h ▸ le_abs_self (T j - q)
    obtain habs | habs := le_abs.mp habs <;> linarith

/-- The loop of R106 on bounds that enclose the index of R105, given turns enough to halve them down to it. -/
theorem nearestLoop_eq_nearest {q : V} (fuel : Nat) {lo hi : Nat} (hle : lo ≤ hi) (hhi : hi ≤ 5) (hfuel : hi - lo < 2 ^ fuel)
    (hbelow : ∀ j, j < lo → ¬q < (T j + T (j + 1)) / 2) (habove : hi < 5 → q < (T hi + T (hi + 1)) / 2) :
    nearestLoop T q fuel lo hi = nearest T q := by
  induction fuel generalizing lo hi with
  | zero =>
    obtain rfl : lo = hi := by omega
    exact eq_nearest hhi habove hbelow
  | succ fuel ih =>
    rw [pow_succ] at hfuel
    rw [nearestLoop]
    split_ifs with hlt hmid
    · exact ih (by omega) (by omega) (by omega) hbelow fun _ => by linarith
    · refine ih (by omega) hhi (by omega) (fun j hj hq => hmid ?_) habove
      linarith [row_le hT (show j ≤ (lo + hi) / 2 by omega) (by omega),
        row_le hT (show j + 1 ≤ (lo + hi) / 2 + 1 by omega) (by omega)]
    · obtain rfl : lo = hi := by omega
      exact eq_nearest hhi habove hbelow

end

/-- Settles O30: the index is the least below whose midpoint the query lies, and the midpoints rise with the row. -/
theorem nearestMinimisesTheDistance : Obligations.NearestMinimisesTheDistance := fun T q hT =>
  ⟨Nat.le_of_lt_succ (nearest_lt T q), (nearest_spec T q).1, (nearest_spec T q).2, fun _ => nearest_minimises hT q,
    fun _ => le_nearest_of_equally_near hT⟩

/-- Settles O31: the bounds 0 and 5 enclose the index, and three turns halve their distance to nothing. -/
theorem binarySearchIsTheNearestSearch : Obligations.BinarySearchIsTheNearestSearch := by
  intro T q fuel hT hfuel
  have hturns : 5 - 0 < 2 ^ fuel := lt_of_lt_of_le (by decide) (Nat.pow_le_pow_right (by decide) hfuel)
  exact nearestLoop_eq_nearest hT fuel (by decide) le_rfl hturns (fun j hj => absurd hj (Nat.not_lt_zero j))
    fun h => absurd h (lt_irrefl 5)

/-! Folding. -/

theorem foldDown_mul_zpow (fuel : Nat) (r : V) (k : Int) :
    (foldDown fuel r k).1 * 2 ^ (foldDown fuel r k).2 = r * 2 ^ k := by
  induction fuel generalizing r k with
  | zero => rfl
  | succ fuel ih =>
    rw [foldDown]
    split_ifs with h
    · rw [ih, zpow_add_one₀ two_ne_zero]
      ring
    · rfl

theorem foldUp_mul_zpow (fuel : Nat) (r : V) (k : Int) : (foldUp fuel r k).1 * 2 ^ (foldUp fuel r k).2 = r * 2 ^ k := by
  induction fuel generalizing r k with
  | zero => rfl
  | succ fuel ih =>
    rw [foldUp]
    split_ifs with h
    · rw [ih, zpow_sub_one₀ two_ne_zero]
      ring
    · rfl

/-- Halving ends below 2 where its turns are enough. -/
theorem foldDown_lt_two {fuel : Nat} {r : V} (k : Int) (h : r < 2 ^ (fuel + 1)) : (foldDown fuel r k).1 < 2 := by
  induction fuel generalizing r k with
  | zero => simpa [foldDown] using h
  | succ fuel ih =>
    rw [foldDown]
    split_ifs with h2
    · exact ih _ (by rw [pow_succ] at h; linarith)
    · exact not_le.mp h2

/-- Halving takes no ratio below 1. -/
theorem min_one_le_foldDown (fuel : Nat) (r : V) (k : Int) : min 1 r ≤ (foldDown fuel r k).1 := by
  induction fuel generalizing r k with
  | zero => exact min_le_right 1 r
  | succ fuel ih =>
    rw [foldDown]
    split_ifs with h2
    · have hhalf : 1 ≤ r / 2 := by linarith
      calc min 1 r ≤ 1 := min_le_left 1 r
        _ = min 1 (r / 2) := (min_eq_left hhalf).symm
        _ ≤ _ := ih ..
    · exact min_le_right 1 r

/-- Doubling ends at or above 1 where its turns are enough. -/
theorem one_le_foldUp {fuel : Nat} {r : V} (k : Int) (h : 1 ≤ r * 2 ^ fuel) : 1 ≤ (foldUp fuel r k).1 := by
  induction fuel generalizing r k with
  | zero => simpa [foldUp] using h
  | succ fuel ih =>
    rw [foldUp]
    split_ifs with h1
    · exact ih _ (by rw [pow_succ] at h; linarith)
    · exact not_lt.mp h1

/-- Doubling takes no ratio to 2. -/
theorem foldUp_lt_two (fuel : Nat) {r : V} (k : Int) (h : r < 2) : (foldUp fuel r k).1 < 2 := by
  induction fuel generalizing r k with
  | zero => exact h
  | succ fuel ih =>
    rw [foldUp]
    split_ifs with h1
    · exact ih _ (by linarith)
    · exact h

/-- The bits of the numerator bound the halvings. -/
theorem lt_two_pow_log2_num {r : V} (h : 0 < r) : r < 2 ^ (Nat.log2 r.num.natAbs + 1) := by
  have hnum : r * r.den = r.num.natAbs := by
    rw [Rat.mul_den_eq_num, Nat.cast_natAbs, abs_of_pos (Rat.num_pos.mpr h)]
  have hden : (1 : V) ≤ r.den := Nat.one_le_cast.mpr r.den_pos
  calc r ≤ r * r.den := le_mul_of_one_le_right h.le hden
    _ = r.num.natAbs := hnum
    _ < 2 ^ (Nat.log2 r.num.natAbs + 1) := mod_cast Nat.lt_log2_self

/-- The bits of the denominator bound the doublings. -/
theorem one_le_mul_two_pow_log2_den {r : V} (h : 0 < r) : 1 ≤ r * 2 ^ (Nat.log2 r.den + 1) := by
  have hnum : (1 : V) ≤ r.num := mod_cast Int.add_one_le_of_lt (Rat.num_pos.mpr h)
  have hden : (r.den : V) ≤ 2 ^ (Nat.log2 r.den + 1) := mod_cast Nat.lt_log2_self.le
  calc (1 : V) ≤ r.num := hnum
    _ = r * r.den := (Rat.mul_den_eq_num r).symm
    _ ≤ r * 2 ^ (Nat.log2 r.den + 1) := mul_le_mul_of_nonneg_left hden h.le

/-- Settles O33: no turn changes the product, and the turns given are enough. -/
theorem foldingBringsARatioIntoOneToTwo : Obligations.FoldingBringsARatioIntoOneToTwo := by
  intro r hr
  refine ⟨one_le_foldUp _ ?_, foldUp_lt_two _ _ (foldDown_lt_two _ (lt_trans (lt_two_pow_log2_num hr) ?_)), ?_⟩
  · have hpow : (1 : V) ≤ 2 ^ (Nat.log2 r.den + 1) := one_le_pow₀ one_le_two
    calc (1 : V) ≤ min 1 r * 2 ^ (Nat.log2 r.den + 1) := by
          rw [min_mul_of_nonneg _ _ (by positivity), one_mul]
          exact le_min hpow (one_le_mul_two_pow_log2_den hr)
      _ ≤ _ := mul_le_mul_of_nonneg_right (min_one_le_foldDown ..) (by positivity)
  · exact pow_lt_pow_right₀ one_lt_two (Nat.lt_succ_self _)
  · rw [foldRatio, foldUp_mul_zpow, foldDown_mul_zpow, zpow_zero, mul_one]

end Sys2Proof.Machine
end

section
/-! PROOFS. The mediant search: its bounds are neighbouring fractions around the query, and the nearer of two neighbours is a
nearest fraction (R113, R114). -/

namespace Sys2Proof.Machine

/-- What R113 asks of the fraction `p/q` answered for `t` and the denominator bound `n`. -/
structure IsNearestFraction (tie : RatTie) (t : V) (n p q : Nat) : Prop where
  den_pos : 1 ≤ q
  den_le : q ≤ n
  num_le : p ≤ q
  coprime : Nat.Coprime p q
  nearest : ∀ (a : Int) (b : Nat), 1 ≤ b → b ≤ n → |t - (p : V) / (q : V)| ≤ |t - (a : V) / (b : V)|
  tied : ∀ (a : Int) (b : Nat), 1 ≤ b → b ≤ n → (a : V) / (b : V) ≠ (p : V) / (q : V) →
    |t - (p : V) / (q : V)| = |t - (a : V) / (b : V)| →
      (tie = .lower → (p : V) / (q : V) < t) ∧ (tie = .upper → t < (p : V) / (q : V))

/-- What the bounds `a/b` and `c/d` of R114 satisfy at every turn: neighbouring fractions, the query between them. -/
structure MediantBounds (t : V) (n a b c d : Nat) : Prop where
  lo_den_pos : 1 ≤ b
  hi_den_pos : 1 ≤ d
  lo_den_le : b ≤ n
  hi_den_le : d ≤ n
  lo_num_le : a ≤ b
  hi_num_le : c ≤ d
  neighbours : b * c = a * d + 1
  lo_le : (a : V) / (b : V) ≤ t
  lt_hi : t < (c : V) / (d : V)

theorem coprime_of_neighbours {a b c d : Nat} (h : b * c = a * d + 1) : Nat.Coprime a b ∧ Nat.Coprime c d := by
  have hz : (b : Int) * c = a * d + 1 := mod_cast h
  exact ⟨Nat.isCoprime_iff_coprime.mp ⟨-d, c, by linear_combination hz⟩,
    Nat.isCoprime_iff_coprime.mp ⟨b, -a, by linear_combination hz⟩⟩

/-- A fraction strictly between two neighbours has at least the denominator of their mediant. -/
theorem mediant_den_le_of_between {a b c d : Nat} {e : Int} {f : Nat} (hb : 1 ≤ b) (hd : 1 ≤ d) (hf : 1 ≤ f)
    (h : b * c = a * d + 1) (hlo : (a : V) / (b : V) < (e : V) / (f : V)) (hhi : (e : V) / (f : V) < (c : V) / (d : V)) :
    b + d ≤ f := by
  have hb' : (0 : V) < b := Nat.cast_pos.mpr hb
  have hd' : (0 : V) < d := Nat.cast_pos.mpr hd
  have hf' : (0 : V) < f := Nat.cast_pos.mpr hf
  have hl : (a : Int) * f + 1 ≤ e * b := Int.add_one_le_of_lt (mod_cast (div_lt_div_iff₀ hb' hf').mp hlo)
  have hr : e * d + 1 ≤ (c : Int) * f := Int.add_one_le_of_lt (mod_cast (div_lt_div_iff₀ hf' hd').mp hhi)
  have hz : (b : Int) * c = a * d + 1 := mod_cast h
  have hsum : (f : Int) = b * (c * f - e * d) + d * (e * b - a * f) := by linear_combination -(f : Int) * hz
  have hb1 : (b : Int) * 1 ≤ b * (c * f - e * d) := mul_le_mul_of_nonneg_left (by linarith) (Int.natCast_nonneg b)
  have hd1 : (d : Int) * 1 ≤ d * (e * b - a * f) := mul_le_mul_of_nonneg_left (by linarith) (Int.natCast_nonneg d)
  omega

/-- A fraction of the query itself is the nearest. -/
theorem isNearestFraction_of_eq {tie : RatTie} {t : V} {n p q : Nat} (hpos : 1 ≤ q) (hle : q ≤ n) (hnum : p ≤ q)
    (hcop : Nat.Coprime p q) (ht : t = (p : V) / (q : V)) : IsNearestFraction tie t n p q where
  den_pos := hpos
  den_le := hle
  num_le := hnum
  coprime := hcop
  nearest a b _ _ := by simp [← ht]
  tied a b _ _ hne heq := by
    rw [← ht, sub_self, abs_zero, eq_comm, abs_eq_zero, sub_eq_zero] at heq
    exact absurd (heq.symm.trans ht) hne

namespace MediantBounds

variable {t : V} {n a b c d : Nat} (h : MediantBounds t n a b c d)
include h

/-- The mediant in place of the lower bound. -/
theorem raise_lower (hn : b + d ≤ n) (hm : ((a + c : Nat) : V) / ((b + d : Nat) : V) ≤ t) :
    MediantBounds t n (a + c) (b + d) c d where
  lo_den_pos := Nat.le_add_right_of_le h.lo_den_pos
  hi_den_pos := h.hi_den_pos
  lo_den_le := hn
  hi_den_le := h.hi_den_le
  lo_num_le := Nat.add_le_add h.lo_num_le h.hi_num_le
  hi_num_le := h.hi_num_le
  neighbours := by rw [add_mul, add_mul, h.neighbours, Nat.mul_comm d c, Nat.add_right_comm]
  lo_le := hm
  lt_hi := h.lt_hi

/-- The mediant in place of the upper bound. -/
theorem drop_upper (hn : b + d ≤ n) (hm : t < ((a + c : Nat) : V) / ((b + d : Nat) : V)) :
    MediantBounds t n a b (a + c) (b + d) where
  lo_den_pos := h.lo_den_pos
  hi_den_pos := Nat.le_add_right_of_le h.lo_den_pos
  lo_den_le := h.lo_den_le
  hi_den_le := hn
  lo_num_le := h.lo_num_le
  hi_num_le := Nat.add_le_add h.lo_num_le h.hi_num_le
  neighbours := by rw [mul_add, mul_add, h.neighbours, Nat.mul_comm b a, Nat.add_assoc]
  lo_le := h.lo_le
  lt_hi := hm

theorem mediant_nearest (tie : RatTie) (hn : b + d ≤ n) (ht : t = ((a + c : Nat) : V) / ((b + d : Nat) : V)) :
    IsNearestFraction tie t n (a + c) (b + d) :=
  have hm := h.raise_lower hn ht.ge
  isNearestFraction_of_eq hm.lo_den_pos hn hm.lo_num_le (coprime_of_neighbours hm.neighbours).1 ht

/-- Where the mediant is out of bound, no fraction in bound lies strictly between the two (R114). -/
theorem outside (hend : n < b + d) {e : Int} {f : Nat} (hf : 1 ≤ f) (hfn : f ≤ n) :
    (e : V) / (f : V) ≤ (a : V) / (b : V) ∨ (c : V) / (d : V) ≤ (e : V) / (f : V) := by
  by_contra hbetween
  rw [not_or, not_le, not_le] at hbetween
  have hden := mediant_den_le_of_between h.lo_den_pos h.hi_den_pos hf h.neighbours hbetween.1 hbetween.2
  omega

/-- The lower bound where it is nearer, or equally near and `RAT_TIE` is `lower`. -/
theorem lower_nearest {tie : RatTie} (hend : n < b + d)
    (hd : t - (a : V) / (b : V) < (c : V) / (d : V) - t ∨
      t - (a : V) / (b : V) = (c : V) / (d : V) - t ∧ tie = .lower) : IsNearestFraction tie t n a b where
  den_pos := h.lo_den_pos
  den_le := h.lo_den_le
  num_le := h.lo_num_le
  coprime := (coprime_of_neighbours h.neighbours).1
  nearest e f hf hfn := by
    have hnear : t - (a : V) / (b : V) ≤ (c : V) / (d : V) - t := hd.elim le_of_lt fun h => h.1.le
    rw [abs_of_nonneg (sub_nonneg.mpr h.lo_le)]
    obtain hle | hge := h.outside hend hf hfn (e := e)
    · exact le_trans (by linarith) (le_abs_self _)
    · exact le_trans (by linarith) (neg_le_abs _)
  tied e f hf hfn hne heq := by
    rw [abs_of_nonneg (sub_nonneg.mpr h.lo_le)] at heq
    obtain hle | hge := h.outside hend hf hfn (e := e)
    · rw [abs_of_nonneg (by linarith [h.lo_le])] at heq
      exact absurd (by linarith) hne
    · rw [abs_of_neg (by linarith [h.lt_hi])] at heq
      obtain ⟨htie, rfl⟩ := hd.resolve_left (by linarith)
      exact ⟨fun _ => by linarith [h.lt_hi], nofun⟩

/-- The upper bound where it is nearer, or equally near and `RAT_TIE` is `upper`. -/
theorem upper_nearest {tie : RatTie} (hend : n < b + d)
    (hd : (c : V) / (d : V) - t < t - (a : V) / (b : V) ∨
      (c : V) / (d : V) - t = t - (a : V) / (b : V) ∧ tie = .upper) : IsNearestFraction tie t n c d where
  den_pos := h.hi_den_pos
  den_le := h.hi_den_le
  num_le := h.hi_num_le
  coprime := (coprime_of_neighbours h.neighbours).2
  nearest e f hf hfn := by
    have hnear : (c : V) / (d : V) - t ≤ t - (a : V) / (b : V) := hd.elim le_of_lt fun h => h.1.le
    rw [abs_of_neg (sub_neg.mpr h.lt_hi)]
    obtain hle | hge := h.outside hend hf hfn (e := e)
    · exact le_trans (by linarith) (le_abs_self _)
    · exact le_trans (by linarith) (neg_le_abs _)
  tied e f hf hfn hne heq := by
    rw [abs_of_neg (sub_neg.mpr h.lt_hi)] at heq
    obtain hle | hge := h.outside hend hf hfn (e := e)
    · rw [abs_of_nonneg (by linarith [h.lo_le])] at heq
      obtain ⟨htie, rfl⟩ := hd.resolve_left (by linarith)
      exact ⟨nofun, fun _ => h.lt_hi⟩
    · rw [abs_of_neg (by linarith [h.lt_hi])] at heq
      exact absurd (by linarith) hne

/-- The end of the search: the nearer bound, `RAT_TIE` between two equally near (R114). -/
theorem nearerBound_nearest (tie : RatTie) (hend : n < b + d) :
    IsNearestFraction tie t n (nearerBound tie t a b c d).1 (nearerBound tie t a b c d).2 := by
  unfold nearerBound
  split_ifs with hlo hhi
  · exact h.lower_nearest hend (.inl hlo)
  · exact h.upper_nearest hend (.inl hhi)
  · have htie := le_antisymm (not_lt.mp hhi) (not_lt.mp hlo)
    cases tie with
    | lower => exact h.lower_nearest hend (.inr ⟨htie, rfl⟩)
    | upper => exact h.upper_nearest hend (.inr ⟨htie.symm, rfl⟩)

/-- The search given turns enough to bring the mediant's denominator out of bound. -/
theorem mediantLoop_nearest (tie : RatTie) (fuel : Nat) (hfuel : n < b + d + fuel) :
    IsNearestFraction tie t n (mediantLoop tie t n fuel a b c d).1 (mediantLoop tie t n fuel a b c d).2 := by
  induction fuel generalizing a b c d with
  | zero => exact h.nearerBound_nearest tie hfuel
  | succ fuel ih =>
    have hb := h.lo_den_pos
    have hd := h.hi_den_pos
    rw [mediantLoop]
    split_ifs with hn heq hlt
    · exact h.mediant_nearest tie hn heq
    · exact ih (h.raise_lower hn hlt.le) (by omega)
    · exact ih (h.drop_upper hn (lt_of_le_of_ne (not_lt.mp hlt) heq)) (by omega)
    · exact h.nearerBound_nearest tie (not_le.mp hn)

end MediantBounds

/-- The search starts from the neighbours `0/1` and `1/1`. -/
theorem mediantBounds_start {t : V} {n : Nat} (h0 : 0 ≤ t) (h1 : t < 1) (hn : 1 ≤ n) : MediantBounds t n 0 1 1 1 where
  lo_den_pos := le_rfl
  hi_den_pos := le_rfl
  lo_den_le := hn
  hi_den_le := hn
  lo_num_le := Nat.zero_le 1
  hi_num_le := le_rfl
  neighbours := rfl
  lo_le := by simpa using h0
  lt_hi := by simpa using h1

/-- The search of R114 answers what R113 asks for. -/
theorem ratApprox_nearest (tie : RatTie) {t : V} {n : Nat} (h0 : 0 ≤ t) (h1 : t < 1) (hn : 1 ≤ n) :
    IsNearestFraction tie t n (ratApprox tie t n).1 (ratApprox tie t n).2 :=
  (mediantBounds_start h0 h1 hn).mediantLoop_nearest tie n (by omega)

/-- Settles O32: the mediant search keeps its bounds neighbours, and `n` turns bring it to its end. -/
theorem rationalApproximationIsNearest : Obligations.RationalApproximationIsNearest := by
  intro tie t n h0 h1 hn p q
  have h := ratApprox_nearest tie h0 h1 hn
  refine ⟨h.den_pos, h.den_le, h.num_le, h.coprime, h.nearest, fun a b hb hbn hne heq => ?_⟩
  obtain ⟨hlower, hupper⟩ := h.tied a b hb hbn hne heq
  cases tie with
  | lower => exact hlower rfl
  | upper => exact hupper rfl

end Sys2Proof.Machine
end

section
/-! PROOFS. What SET_STRUCTURE answers under any configuration, and the matrix it writes (R141 to R144). -/

namespace Sys2Proof.Machine

/-- The two outcomes of SET_STRUCTURE, told apart by its operand alone (R141, R143). -/
theorem setStructureWith_eq (c : Config) (value : V) (s : State) :
    setStructureWith c value s =
      if value < 0 ∨ 1 ≤ value then .fault (.structRange s.cp)
      else .next ((s.setMx (structureMatrix c value)).advance 2) := by
  unfold setStructureWith checkStructure
  split_ifs <;> rfl

/-- A matrix given by one coefficient per voice is written by one register per voice (R26). -/
theorem setMx_ofFn (s : State) (f : Fin 6 → V) : s.setMx (Six.ofFn f) = { s with mx := Six.ofFn fun i => .val (f i) } := rfl

/-- Settles O34: the operand's range decides the outcome, and the matrix is the model's own with its floors and table reads in
the library's terms. -/
theorem setStructureInterpolatesTheMatrix : Obligations.SetStructureInterpolatesTheMatrix := by
  intro value s
  rw [exec, execSetStructure, setStructureWith_eq]
  constructor
  · exact fun hout => if_pos hout
  · intro h0 h1
    rw [if_neg (not_or.mpr ⟨not_lt.mpr h0, not_le.mpr h1⟩), structureMatrix, setMx_ofFn]
    rfl

/-- Settles O36: a command that answers had its operand in `[0,1)`, where every coefficient is an interpolation between two
values of `[0,1]`. -/
theorem matrixCoefficientsAreInUnitRange : Obligations.MatrixCoefficientsAreInUnitRange := by
  intro c value s t hc h i
  rw [setStructureWith_eq] at h
  split_ifs at h with hout
  obtain ⟨h0, h1⟩ := not_or.mp hout
  obtain rfl := Host.Outcome.next.inj h
  exact ⟨_, State.setMx_get s _ i, structureMatrix_unit hc (not_lt.mp h0) (not_le.mp h1) i⟩

end Sys2Proof.Machine
end

section
/-! PROOFS. The stages of one sample and the wrap step of a phase, by their formulas (R154, R157 to R162, R168). -/

namespace Sys2Proof.Machine

/-! The stages of a sample. -/

/-- Settles O44: the stages one after the other, with the truncation of R161 in the library's terms. -/
theorem railSampleIsTheFourStages : Obligations.RailSampleIsTheFourStages := by
  intro p r ph
  simp only [railSample, softClip, bitDepth, truncV_eq]
  cases r <;> rfl

/-- The decimator rounds down (R158). -/
theorem decimator_le {level p : V} (hl : 0 < level) : decimator level p ≤ p :=
  (div_le_iff₀ hl).mpr (floorV_le _)

theorem decimator_nonneg {level p : V} (hl : 0 < level) (hp : 0 ≤ p) : 0 ≤ decimator level p :=
  div_nonneg (Int.cast_nonneg (Int.floor_nonneg.mpr (mul_nonneg hp hl.le))) hl.le

/-- A phase on the grid stays (R158). -/
theorem decimator_of_grid {level p : V} (hl : 0 < level) {z : Int} (hz : p * level = z) : decimator level p = p := by
  rw [decimator, floorV_eq_floor, hz, Int.floor_intCast, ← hz, mul_div_cancel_right₀ _ hl.ne']

/-- Settles O45: the floor lies below the scaled phase, and is it where that is an integer. -/
theorem decimatorRoundsThePhaseDown : Obligations.DecimatorRoundsThePhaseDown := by
  refine ⟨fun _ _ => rfl, fun level p hl h0 _ => ⟨decimator_nonneg hl h0, decimator_le hl⟩,
    fun level p hl ⟨z, hz⟩ => decimator_of_grid hl hz, ?_⟩
  have hf : floorV (3 / 10 * 4) = 1 := by rw [floorV_eq_floor, Int.floor_eq_iff]; norm_num
  rw [decimator, hf]
  norm_num

/-- Rounding toward zero moves a value by less than 1, down or up to an integer on the same side of 0 (R13). -/
theorem truncV_range (x : V) :
    (0 ≤ (truncV x : V) ∧ (truncV x : V) ≤ x ∧ x < truncV x + 1) ∨
      (x < 0 ∧ (truncV x : V) ≤ 0 ∧ x ≤ truncV x ∧ (truncV x : V) < x + 1) := by
  rw [truncV_eq]
  split_ifs with h
  · exact .inl ⟨Int.cast_nonneg (Int.floor_nonneg.mpr h), Int.floor_le x, Int.lt_floor_add_one x⟩
  · rw [not_le] at h
    exact .inr ⟨h, Int.cast_nonpos.mpr (Int.ceil_le.mpr (by exact_mod_cast h.le)), Int.le_ceil x, Int.ceil_lt_add_one x⟩

theorem abs_truncV_le (x : V) : |(truncV x : V)| ≤ |x| := by
  obtain ⟨h0, hle, -⟩ | ⟨hx, h0, hle, -⟩ := truncV_range x
  · exact abs_le_abs_of_nonneg h0 hle
  · rw [abs_of_nonpos h0, abs_of_neg hx]
    exact neg_le_neg hle

theorem abs_sub_truncV_lt_one (x : V) : |x - truncV x| < 1 := by
  rw [abs_lt]
  obtain ⟨-, hle, hlt⟩ | ⟨-, -, hle, hlt⟩ := truncV_range x <;> constructor <;> linarith

/-- The truncation is 0 or has the sign of the value. -/
theorem truncV_sign (x : V) : truncV x = 0 ∨ (0 < (truncV x : V) ∧ 0 < x) ∨ ((truncV x : V) < 0 ∧ x < 0) := by
  obtain h | h | h := lt_trichotomy (truncV x : V) 0
  · obtain ⟨h0, -, -⟩ | ⟨hx, -, -, -⟩ := truncV_range x
    · exact absurd h (not_lt.mpr h0)
    · exact .inr (.inr ⟨h, hx⟩)
  · exact .inl (Int.cast_eq_zero.mp h)
  · obtain ⟨-, hle, -⟩ | ⟨-, h0, -, -⟩ := truncV_range x
    · exact .inr (.inl ⟨h, h.trans_le hle⟩)
    · exact absurd h (not_lt.mpr h0)

/-- The quantized sample is no larger than the sample (R161). -/
theorem abs_bitDepth_le {level : V} (hl : 0 < level) (s : V) : |bitDepth level s| ≤ |s| := by
  rw [bitDepth, abs_div, abs_of_pos hl, div_le_iff₀ hl]
  calc |(truncV (s * level) : V)| ≤ |s * level| := abs_truncV_le _
    _ = |s| * level := by rw [abs_mul, abs_of_pos hl]

/-- The quantized sample keeps the sample's sign or is 0 (R161). -/
theorem bitDepth_sign {level : V} (hl : 0 < level) (s : V) :
    bitDepth level s = 0 ∨ (0 < bitDepth level s ∧ 0 < s) ∨ (bitDepth level s < 0 ∧ s < 0) := by
  unfold bitDepth
  obtain h | ⟨h, hs⟩ | ⟨h, hs⟩ := truncV_sign (s * level)
  · exact .inl (by rw [h, Int.cast_zero, zero_div])
  · exact .inr (.inl ⟨div_pos h hl, pos_of_mul_pos_left hs hl.le⟩)
  · exact .inr (.inr ⟨div_neg_of_neg_of_pos h hl, neg_of_mul_neg_left hs hl.le⟩)

/-- Settles O46: what the truncation does to the scaled sample, divided by the level. -/
theorem bitDepthTruncatesTowardZero : Obligations.BitDepthTruncatesTowardZero := by
  refine ⟨fun level s => by rw [bitDepth, truncV_eq], fun level s hl => abs_bitDepth_le hl s,
    fun level s hl => bitDepth_sign hl s, fun level s _ => ⟨truncV (s * level), rfl, abs_sub_truncV_lt_one _⟩, ?_⟩
  have h1 : truncV (-3 / 10 * 4) = -1 := by rw [truncV_eq, if_neg (by norm_num), Int.ceil_eq_iff]; norm_num
  have h2 : truncV (3 / 10 * 4) = 1 := by rw [truncV_eq, if_pos (by norm_num), Int.floor_eq_iff]; norm_num
  have h3 : truncV (1 / 5 * 4) = 0 := by rw [truncV_eq, if_pos (by norm_num), Int.floor_eq_iff]; norm_num
  simp only [bitDepth, h1, h2, h3]
  norm_num

/-! The wrap step. -/

/-- A phase outside `[0,1)` fails its check (R157, R168). -/
theorem checkPhase_outside {cp : Nat} {p : V} (h : ¬(0 ≤ p ∧ p < 1)) : checkPhase cp p = .error (.phaseRange cp) := by
  cases hc : checkPhase cp p with
  | ok q => exact absurd (checkPhase_ok.mp hc).2 h
  | error f => rw [checkPhase_error hc]

/-- A wrap step moves a phase sum by a whole number of periods (R157). -/
theorem wrapOnce_eq_add_int (q : V) : ∃ z : Int, wrapOnce q = q + z := by
  unfold wrapOnce
  split_ifs
  · exact ⟨-1, by push_cast; ring⟩
  · exact ⟨1, by push_cast; ring⟩
  · exact ⟨0, by push_cast; ring⟩

/-- Settles O47: the check passes exactly in the ranges of the two wrap steps. -/
theorem phaseWrapsByOneStepOrFaults : Obligations.PhaseWrapsByOneStepOrFaults := by
  refine ⟨fun cp q h0 h1 => ?_, fun cp q h => ?_, fun cp ph inc h0 h1 => ?_, fun cp ph inc h => ?_⟩
  · obtain ⟨z, hz⟩ := wrapOnce_eq_add_int q
    have hr := wrapOnce_range.mpr ⟨h0, h1⟩
    rw [hz] at hr ⊢
    exact ⟨z, checkPhase_ok.mpr ⟨rfl, hr⟩, hr⟩
  · exact checkPhase_outside fun hr => by
      obtain ⟨h0, h1⟩ := wrapOnce_range.mp hr
      exact h.elim (not_lt.mpr h0) (not_le.mpr h1)
  · exact checkPhase_ok.mpr ⟨rfl, advancePhase_range.mpr ⟨h0, h1⟩⟩
  · exact checkPhase_outside fun hr => by
      obtain ⟨h0, h1⟩ := advancePhase_range.mp hr
      exact h.elim (not_lt.mpr h0) (not_le.mpr h1)

end Sys2Proof.Machine
end

section
/-! PROOFS. The checks of a processing command: the frame count, then the registers and the levels before frame 0
(R151, R153). -/

namespace Sys2Proof.Machine

/-! The frame count. -/

/-- A count above the capacity of `FB` stops the command before anything else (R151). -/
theorem procWith_above {c : Config} {count : Nat} (h : c.fbFrames < count) (mode : Mode) (s : State) :
    procWith c mode count s = .fault (.fbRange s.cp) := by
  rw [procWith, checkCount, if_pos h]
  rfl

/-- A non-empty block that answers leaves what its frames compute from the registers (R151, R152). -/
theorem procWith_next_block {mode : Mode} {count : Nat} {s t : State} (h1 : 1 ≤ count)
    (h : procWith Config.cfg mode count s = .next t) :
    ∃ p : Params, p.Of s ∧ t = (blockResult Config.cfg mode p count s).advance 1 := by
  obtain ⟨-, ⟨h0, -⟩ | ⟨p, -, hp, -, ht⟩⟩ := procWith_next h
  · omega
  · exact ⟨p, hp, ht⟩

/-- Settles O38: the three cases of the count, in either mode. -/
theorem frameCountIsCheckedFirst : Obligations.FrameCountIsCheckedFirst := by
  intro count s
  refine ⟨fun h => ⟨procWith_above h .fm s, procWith_above h .am s⟩, ?_, fun _ => procWith_next_block,
    fun _ => procWith_next_block⟩
  rintro rfl
  exact ⟨procWith_zero Config.cfg .fm s, procWith_zero Config.cfg .am s⟩

/-! The checks before frame 0. -/

/-- A sequence of two parts faults where the first does, or else the second. -/
theorem bind_error {α β : Type} {x : Except Fault α} {f : α → Except Fault β} {e : Fault} :
    (x >>= f) = .error e ↔ x = .error e ∨ ∃ a, x = .ok a ∧ f a = .error e := by
  cases x <;> simp [bind, Except.bind]

/-- The only fault reading a register can raise. -/
theorem need_error {α : Type} {cp : Nat} {x : Reg α} {f : Fault} (h : need cp x = .error f) : f = .unwrittenRead cp := by
  cases x with
  | val v => cases h
  | undef => exact (Except.error.inj h).symm

/-- The registers a processing command reads hold values exactly when none of them lacks one (R153). -/
theorem not_lacksValue_iff {s : State} : ¬s.LacksValue ↔ ∃ p : Params, p.Of s := by
  have hw : ∀ {α : Type} {x : Reg α}, x ≠ .undef → ∃ v, x = .val v := fun {_ x} hx => by
    cases x with
    | val v => exact ⟨v, rfl⟩
    | undef => exact absurd rfl hx
  constructor
  · intro h
    simp only [State.LacksValue, not_or, not_exists] at h
    obtain ⟨hinc, hmx, hfeedback, hmodindex⟩ := h
    choose inc hinc using fun i => hw (hinc i)
    choose mx hmx using fun i => hw (hmx i)
    obtain ⟨feedback, hfeedback⟩ := hw hfeedback
    obtain ⟨modindex, hmodindex⟩ := hw hmodindex
    exact ⟨⟨Six.ofFn inc, Six.ofFn mx, feedback, modindex, s.bitcrush, s.decimate, s.drive⟩,
      fun i => by rw [Six.get_ofFn, hinc], fun i => by rw [Six.get_ofFn, hmx], hfeedback, hmodindex, rfl, rfl, rfl⟩
  · rintro ⟨p, hp⟩
    simp [State.LacksValue, hp.inc, hp.mx, hp.feedback, hp.modindex]

/-- Of written registers only the levels remain to be checked (R153). -/
theorem snapshot_of {s : State} {p : Params} (hp : p.Of s) :
    snapshot Config.cfg s = (checkLevels Config.cfg s).map fun _ => p := by
  obtain ⟨hinc, hmx, hfeedback, hmodindex, hbitcrush, hdecimate, hdrive⟩ := hp
  rw [snapshot, needSix_ok.mpr hinc, needSix_ok.mpr hmx, need_ok.mpr hfeedback, need_ok.mpr hmodindex, hbitcrush, hdecimate,
    hdrive]
  cases checkLevels Config.cfg s <;> rfl

/-- An unwritten register stops the checks, whatever the levels (R153). -/
theorem snapshot_of_lacksValue {s : State} (h : s.LacksValue) :
    snapshot Config.cfg s = .error (.unwrittenRead s.cp) := by
  cases hs : snapshot Config.cfg s with
  | ok p => exact absurd h (not_lacksValue_iff.mpr ⟨p, (snapshot_ok.mp hs).1⟩)
  | error f =>
    unfold snapshot at hs
    obtain he | ⟨inc, hinc, hs⟩ := bind_error.mp hs
    · rw [needSix_error he]
    obtain he | ⟨mx, hmx, hs⟩ := bind_error.mp hs
    · rw [needSix_error he]
    obtain he | ⟨feedback, hfeedback, hs⟩ := bind_error.mp hs
    · rw [need_error he]
    obtain he | ⟨modindex, hmodindex, -⟩ := bind_error.mp hs
    · rw [need_error he]
    have hp : (⟨inc, mx, feedback, modindex, s.bitcrush, s.decimate, s.drive⟩ : Params).Of s :=
      ⟨needSix_ok.mp hinc, needSix_ok.mp hmx, need_ok.mp hfeedback, need_ok.mp hmodindex, rfl, rfl, rfl⟩
    exact absurd h (not_lacksValue_iff.mpr ⟨_, hp⟩)

/-- When the checks of R153 fault: the registers before the levels. -/
theorem snapshot_error {s : State} {f : Fault} :
    snapshot Config.cfg s = .error f ↔
      (s.LacksValue ∧ f = .unwrittenRead s.cp) ∨ (¬s.LacksValue ∧ checkLevels Config.cfg s = .error f) := by
  by_cases h : s.LacksValue
  · simp [snapshot_of_lacksValue h, h, eq_comm]
  · obtain ⟨p, hp⟩ := not_lacksValue_iff.mp h
    rw [snapshot_of hp]
    cases checkLevels Config.cfg s <;> simp [Except.map, h]

/-- When the level checks fault: each check where the ones before it pass (R153). -/
theorem checkLevels_error {c : Config} {s : State} {f : Fault} :
    checkLevels c s = .error f ↔
      (s.decimate ≤ 0 ∧ f = .decimateLevel s.cp) ∨
      (0 < s.decimate ∧ s.bitcrush ≤ 0 ∧ f = .bitcrushLevel s.cp) ∨
      (0 < s.decimate ∧ 0 < s.bitcrush ∧ c.sat s.drive = 0 ∧ f = .driveZero s.cp) := by
  unfold checkLevels raise
  split_ifs with hd hb hs
  · simp [hd, not_lt.mpr hd, eq_comm]
  · simp [hd, not_le.mp hd, hb, not_lt.mpr hb, eq_comm]
  · simp [hd, hb, hs, not_le.mp hd, not_le.mp hb, eq_comm]
  · simp [hd, hb, hs]

/-- Of the faults of a block within the capacity the checks raise all but those of its phases (R153). -/
theorem procWith_fault {mode : Mode} {count : Nat} {s : State} {f : Fault} (h1 : 1 ≤ count)
    (h2 : count ≤ Config.cfg.fbFrames) (hf : f ≠ .phaseRange s.cp) :
    procWith Config.cfg mode count s = .fault f ↔ snapshot Config.cfg s = .error f := by
  cases hs : snapshot Config.cfg s with
  | error g =>
    have hc : checkCount Config.cfg s.cp count = .ok () := if_neg (not_lt.mpr h2)
    have h0 : count ≠ 0 := by omega
    simp [procWith, runBlock, hc, hs, h0, bind, Except.bind]
  | ok p =>
    obtain ⟨hp, hl⟩ := snapshot_ok.mp hs
    rw [procWith_checked hp hl h1 h2]
    cases runFrames Config.cfg s.cp mode p count 0 s.block <;> simp [hf.symm]

/-- Settles O39: a fault other than a phase's is the checks', and their cases exclude one another. -/
theorem blockChecksFaultInOrder : Obligations.BlockChecksFaultInOrder := by
  intro i count s hi h1 h2
  obtain ⟨-, mode, he⟩ := exec_processing hi
  have hfault : ∀ f, f ≠ .phaseRange s.cp → (exec i s = .fault f ↔ snapshot Config.cfg s = .error f) :=
    fun f hf => by rw [he, procWith_fault h1 h2 hf]
  refine ⟨?_, ?_, ?_, ?_, ?completes⟩
  case completes =>
    intro t ht
    obtain ⟨hinc, hmx, -, hfeedback, hmodindex, hbitcrush, hdecimate, hdrive, -⟩ :=
      processingCommandsFrame i count s t hi ht
    exact ⟨hinc, hmx, hfeedback, hmodindex, hdecimate, hbitcrush, hdrive⟩
  all_goals simp [hfault, snapshot_error, checkLevels_error]

end Sys2Proof.Machine
end

section
/-! PROOFS. When the frames of a block run: every phase sum and every advance in its range (R153, R157, R168, R241, R242). -/

namespace Sys2Proof.Machine

/-! The ranges of the two wrap steps, and what a block must keep them for. -/

/-- A phase sum one wrap step brings into `[0,1)` (R157). -/
def SumBounded (q : V) : Prop := -1 ≤ q ∧ q < 2

/-- A phase and an increment whose advance is in `[0,1)` (R168). -/
def AdvanceBounded (q inc : V) : Prop := 0 ≤ q + inc ∧ q + inc < 2

/-- What the checks of some voices of a frame ask (R157, R168): in FM mode each phase sum, in both modes each advance. -/
def VoicesBounded (c : Config) (mode : Mode) (p : Params) (inp : Rails) (l : List (Fin 6)) (x : Chain) : Prop :=
  (mode = .fm → ∀ q ∈ voiceSums c p inp l x, SumBounded q) ∧ ∀ i ∈ l, AdvanceBounded (x.ph.get i) (p.inc.get i)

/-- What the checks of `n` frames from frame `k` on ask (R241, R242). -/
def FramesBounded (c : Config) (mode : Mode) (p : Params) (n k : Nat) (b : Block) : Prop :=
  (mode = .fm → ∀ q ∈ blockSums c p n k b, SumBounded q) ∧
    ∀ j, j < n → ∀ i, AdvanceBounded (phaseAfter (p.inc.get i) j (b.ph.get i)) (p.inc.get i)

section
variable {c : Config} {cp : Nat} {mode : Mode} {p : Params}

/-! The voices of a frame. -/

/-- A voice answers exactly when its sums, in FM mode, and its advance are in range. -/
theorem runVoice_answers_iff {inp : Rails} {i : Fin 6} {x : Chain} :
    (∃ y, runVoice c cp mode p inp i x = .ok y) ↔
      (mode = .fm → SumBounded (phaseSum c p inp i x .left) ∧ SumBounded (phaseSum c p inp i x .right)) ∧
        AdvanceBounded (x.ph.get i) (p.inc.get i) := by
  have hadv : (0 ≤ advancePhase (x.ph.get i) (p.inc.get i) ∧ advancePhase (x.ph.get i) (p.inc.get i) < 1) ↔
      AdvanceBounded (x.ph.get i) (p.inc.get i) := advancePhase_range
  have hrail : ∀ r, (∃ q, railPhase c cp mode p inp i x r = .ok q) ↔
      (mode = .fm → SumBounded (phaseSum c p inp i x r)) := fun r => by
    cases mode with
    | am => simp [railPhase]
    | fm =>
      rw [forall_prop_of_true rfl]
      exact railPhase_fm_ok
  simp only [runVoice_ok, exists_and_left, exists_eq, and_true, hrail, hadv, imp_and, and_assoc]

/-- A voice, then the voices after it. -/
theorem runVoices_cons_answers_iff {inp : Rails} {i : Fin 6} {is : List (Fin 6)} {x : Chain} :
    (∃ y, runVoices c cp mode p inp (i :: is) x = .ok y) ↔
      (∃ y, runVoice c cp mode p inp i x = .ok y) ∧
        ∃ y, runVoices c cp mode p inp is (plainVoice c mode p inp i x) = .ok y := by
  rw [runVoices]
  cases hv : runVoice c cp mode p inp i x with
  | error e => simp
  | ok z =>
    obtain ⟨-, -, -, -, rfl⟩ := runVoice_ok.mp hv
    simp

/-- A voice leaves the phases of the voices after it as the frame found them. -/
theorem voicesBounded_cons {inp : Rails} {i : Fin 6} {is : List (Fin 6)} (hi : i ∉ is) {x : Chain} :
    VoicesBounded c mode p inp (i :: is) x ↔
      ((mode = .fm → SumBounded (phaseSum c p inp i x .left) ∧ SumBounded (phaseSum c p inp i x .right)) ∧
        AdvanceBounded (x.ph.get i) (p.inc.get i)) ∧ VoicesBounded c mode p inp is (plainVoice c mode p inp i x) := by
  have hph : ∀ j ∈ is, (plainVoice c mode p inp i x).ph.get j = x.ph.get j := fun j hj => by
    rw [plainVoice_ph, if_neg (ne_of_mem_of_not_mem hj hi)]
  have hadv : (∀ j ∈ is, AdvanceBounded ((plainVoice c mode p inp i x).ph.get j) (p.inc.get j)) ↔
      ∀ j ∈ is, AdvanceBounded (x.ph.get j) (p.inc.get j) := forall₂_congr fun j hj => by rw [hph j hj]
  simp only [VoicesBounded, hadv, voiceSums, List.forall_mem_cons]
  cases mode with
  | am => simp
  | fm =>
    simp only [true_imp_iff]
    tauto

/-- Distinct voices answer exactly when their checks pass. -/
theorem runVoices_answers_iff {inp : Rails} {l : List (Fin 6)} (hl : l.Nodup) {x : Chain} :
    (∃ y, runVoices c cp mode p inp l x = .ok y) ↔ VoicesBounded c mode p inp l x := by
  induction l generalizing x with
  | nil => simp [runVoices, VoicesBounded, voiceSums]
  | cons i is ih =>
    obtain ⟨hi, his⟩ := List.nodup_cons.mp hl
    rw [runVoices_cons_answers_iff, runVoice_answers_iff, ih his, voicesBounded_cons hi]

/-! The frames of a block. -/

theorem runFrame_answers_iff {k : Nat} {b : Block} :
    (∃ b', runFrame c cp mode p k b = .ok b') ↔
      VoicesBounded c mode p (frameInput b.frames k) ascending (frameStart b) := by
  rw [← runVoices_answers_iff (cp := cp) (by decide), runFrame]
  cases runVoices c cp mode p (frameInput b.frames k) ascending (frameStart b) <;>
    simp [bind, Except.bind, pure, Except.pure]

/-- A frame, then the frames after it. -/
theorem runFrames_succ_answers_iff {n k : Nat} {b : Block} :
    (∃ b', runFrames c cp mode p (n + 1) k b = .ok b') ↔
      (∃ b', runFrame c cp mode p k b = .ok b') ∧
        ∃ b', runFrames c cp mode p n (k + 1) (plainFrame c mode p k b) = .ok b' := by
  rw [runFrames]
  cases hf : runFrame c cp mode p k b with
  | error e => simp
  | ok z =>
    obtain rfl := runFrame_ok hf
    simp

/-- A frame advances each phase once, so the later advances are those of the frames after it. -/
theorem framesBounded_succ {n k : Nat} {b : Block} :
    FramesBounded c mode p (n + 1) k b ↔
      VoicesBounded c mode p (frameInput b.frames k) ascending (frameStart b) ∧
        FramesBounded c mode p n (k + 1) (plainFrame c mode p k b) := by
  have hadv : (∀ j, j < n + 1 → ∀ i, AdvanceBounded (phaseAfter (p.inc.get i) j (b.ph.get i)) (p.inc.get i)) ↔
      (∀ i ∈ ascending, AdvanceBounded ((frameStart b).ph.get i) (p.inc.get i)) ∧
        ∀ j, j < n → ∀ i,
          AdvanceBounded (phaseAfter (p.inc.get i) j ((plainFrame c mode p k b).ph.get i)) (p.inc.get i) := by
    simp only [Nat.forall_lt_succ_left, plainFrame_ph, mem_ascending, true_imp_iff]
    rfl
  simp only [FramesBounded, VoicesBounded, hadv, blockSums, List.forall_mem_append]
  cases mode with
  | am => simp
  | fm =>
    simp only [true_imp_iff]
    tauto

/-- Frames answer exactly when their checks pass. -/
theorem runFrames_answers_iff {n k : Nat} {b : Block} :
    (∃ b', runFrames c cp mode p n k b = .ok b') ↔ FramesBounded c mode p n k b := by
  induction n generalizing k b with
  | zero => simp [runFrames, FramesBounded, blockSums]
  | succ n ih => rw [runFrames_succ_answers_iff, runFrame_answers_iff, ih, framesBounded_succ]

end

/-! The processing commands. -/

section
variable {mode : Mode} {count : Nat} {s : State} {p : Params} (hp : p.Of s) (hl : p.LevelsLegal) (h1 : 1 ≤ count)
  (h2 : count ≤ Config.cfg.fbFrames)
include hp hl h1 h2

/-- A block in its ranges answers what its frames compute (R152). -/
theorem procWith_of_framesBounded (h : FramesBounded Config.cfg mode p count 0 s.block) :
    procWith Config.cfg mode count s = .next ((blockResult Config.cfg mode p count s).advance 1) := by
  obtain ⟨b, hb⟩ := (runFrames_answers_iff (cp := s.cp)).mpr h
  rw [procWith_checked hp hl h1 h2, hb]

/-- A block that leaves them stops with PHASE_RANGE (R157, R168). -/
theorem procWith_of_not_framesBounded (h : ¬FramesBounded Config.cfg mode p count 0 s.block) :
    procWith Config.cfg mode count s = .fault (.phaseRange s.cp) := by
  rw [procWith_checked hp hl h1 h2]
  cases hb : runFrames Config.cfg s.cp mode p count 0 s.block with
  | ok b => exact absurd (runFrames_answers_iff.mp ⟨b, hb⟩) h
  | error f => rfl

end

/-- In AM mode only the advances are checked (R156, R168). -/
theorem framesBounded_am {c : Config} {p : Params} {count : Nat} {s : State} :
    FramesBounded c .am p count 0 s.block ↔ AdvancesBounded p count s :=
  and_iff_right fun h => Mode.noConfusion h

/-- In FM mode the phase sums are, too (R157, R168). -/
theorem framesBounded_fm {c : Config} {p : Params} {count : Nat} {s : State} :
    FramesBounded c .fm p count 0 s.block ↔ FmInputBounded c p count s ∧ AdvancesBounded p count s :=
  and_congr_left' (forall_prop_of_true rfl)

/-! The increment contract (R241). -/

/-- A phase in `[0,1)` stays there over any number of advances by an increment in `[0,1)` (R168, R174). -/
theorem phaseAfter_unit {inc : V} (hinc : 0 ≤ inc ∧ inc < 1) (n : Nat) {q : V} (hq : 0 ≤ q ∧ q < 1) :
    0 ≤ phaseAfter inc n q ∧ phaseAfter inc n q < 1 := by
  induction n generalizing q with
  | zero => exact hq
  | succ n ih => exact ih (advancePhase_range.mpr ⟨add_nonneg hq.1 hinc.1, by linarith⟩)

/-- Increments and phases in `[0,1)` keep every advance of a block in range (R241). -/
theorem advancesBounded_of_contract {p : Params} {s : State} (hinc : p.IncrementsBounded) (hph : s.PhaseInRange)
    (count : Nat) : AdvancesBounded p count s := by
  intro k _ i
  obtain ⟨h0, h1⟩ := phaseAfter_unit (hinc i) k (hph i)
  exact ⟨add_nonneg h0 (hinc i).1, by linarith [(hinc i).2]⟩

/-- Settles O40: in AM mode the ranges of a block are its advances'. -/
theorem procAmCompletesUnderItsContracts : Obligations.ProcAmCompletesUnderItsContracts := by
  intro count s p hp hl h1 h2
  exact ⟨fun hinc hph => advancesBounded_of_contract hinc hph count,
    fun h => procWith_of_framesBounded hp hl h1 h2 (framesBounded_am.mpr h),
    fun h => procWith_of_not_framesBounded hp hl h1 h2 (mt framesBounded_am.mp h)⟩

/-- Settles O41: in FM mode the ranges of a block are its phase sums' and its advances'. -/
theorem procFmCompletesExactlyUnderItsInputBound : Obligations.ProcFmCompletesExactlyUnderItsInputBound := by
  intro count s p hp hl h1 h2
  exact ⟨fun hinc hph => advancesBounded_of_contract hinc hph count,
    fun hsums hadv => procWith_of_framesBounded hp hl h1 h2 (framesBounded_fm.mpr ⟨hsums, hadv⟩),
    fun h => procWith_of_not_framesBounded hp hl h1 h2 fun hb => h (framesBounded_fm.mp hb).1,
    fun h => procWith_of_not_framesBounded hp hl h1 h2 fun hb => h (framesBounded_fm.mp hb).2⟩

end Sys2Proof.Machine
end

section
/-! PROOFS. A frame of an all-zero matrix (R173). -/

namespace Sys2Proof.Machine

section
variable {p : Params} (hmx : ∀ i, p.mx.get i = 0)
include hmx

/-- With no coefficient the stereo sum is divided by six gains of 1 and the headroom (R170). -/
theorem overGain_of_zero (acc : V) : overGain p acc = acc / 8 := by
  rw [overGain_of_unit fun i => by rw [hmx i]; norm_num]
  congr 1
  simp only [hmx, Fin.sum_univ_six]
  norm_num

/-- With no coefficient an FM frame hands on its seed to voice 0, and nothing to the others (R166, R173). -/
theorem FrameFollows.carry_of_zero {c : Config} {k : Nat} {b b' : Block} {m : Fin 6 → V} {v : Fin 6 → Rail → V}
    (hf : FrameFollows c .fm p k b b' m v) (i : Fin 6) : m i = if i = 0 then 1 else 0 := by
  split_ifs with hi
  · rw [hi, hf.seed]
  · have hpos : i.val ≠ 0 := fun h => hi (Fin.ext h)
    rw [hf.carry ⟨i.val - 1, by omega⟩ i (by simp only; omega), handOff, hmx, mul_zero]

/-- With no coefficient the output pair is the equal mix of the six voices, which only the seed modulates (R173). -/
theorem plainFrame_of_zero (c : Config) (k : Nat) (b : Block) (r : Rail) :
    (plainFrame c .fm p k b).frames.read (frameCell k r) =
      (∑ i : Fin 6, railSample c p r (wrapOnce (b.ph.get i + b.frames.read (frameCell k r) + c.fbOffset +
        (b.fb.get i).get r * p.feedback + (if i = 0 then p.modindex else 0)))) / 8 := by
  obtain ⟨m, v, hf⟩ := plainFrame_follows c .fm p k b
  rw [hf.pair, normalise, overGain_of_zero hmx]
  congr 1
  refine Finset.sum_congr rfl fun i _ => ?_
  have hcarry : m i * p.modindex = if i = 0 then p.modindex else 0 := by
    rw [hf.carry_of_zero hmx, ite_mul, one_mul, zero_mul]
  rw [gain, hmx, sub_zero, mul_one, hf.output, ← hcarry, ← frameInput_get]
  rfl

end

/-- Settles O48: a block of one frame is that frame. -/
theorem allZeroMatrixMixesTheVoicesEqually : Obligations.AllZeroMatrixMixesTheVoicesEqually := by
  refine fun p hmx => ⟨plainFrame_of_zero hmx Config.cfg, fun s t r hp h => ?_⟩
  obtain ⟨q, hq, rfl⟩ := procWith_next_block le_rfl h
  obtain rfl := hp.unique hq
  exact plainFrame_of_zero hmx Config.cfg 0 s.block r

end Sys2Proof.Machine
end

section
/-! PROOFS. INIT and the setters: commands whose body cannot stop (R190 to R197, R230). -/

namespace Sys2Proof.Machine

/-- Settles O14: INIT's body is `resetRegisters`, which takes every register from the state after reset. -/
theorem initResetsRegistersAndKeepsFrames : Obligations.InitResetsRegistersAndKeepsFrames :=
  fun s => finish_ok 1 (s.resetRegisters Config.cfg)

/-- Settles O17: each setter's body is its one register write, which checks nothing; a value operand is a second word (R72). -/
theorem settersStoreTheirOperand : Obligations.SettersStoreTheirOperand :=
  fun s b v => ⟨
    finish_ok 1 (s.setFreeze b),
    finish_ok 2 (s.setFeedback v),
    finish_ok 2 (s.setModindex v),
    finish_ok 2 (s.setBitcrush v),
    finish_ok 2 (s.setDecimate v),
    finish_ok 2 (s.setDrive v)⟩

end Sys2Proof.Machine
end

section
/-! PROOFS. The outcomes of a command and of a step: never a refusal, and only the faults of the table (R210, R211, R213). -/

namespace Sys2Proof.Machine

/-! Every outcome is that of a body `finish` ends, and every step's is a command's, a decode fault or the wait. -/

/-- Every command is a body ended by `finish` (R72). -/
theorem exec_eq_finish (i : Instr) (s : State) : ∃ body, exec i s = finish i.words body := by
  cases i with
  | freqFree _ _ _ => exact ⟨_, rfl⟩
  | freqChord _ _ _ _ => exact ⟨_, rfl⟩
  | freqRational _ _ _ => exact ⟨_, rfl⟩
  | freqHarmonic _ _ _ _ => exact ⟨_, rfl⟩
  | setStructure _ => exact ⟨_, rfl⟩
  | procFm _ => exact ⟨_, rfl⟩
  | procAm _ => exact ⟨_, rfl⟩
  | _ => exact ⟨.ok _, rfl⟩

/-- What a step does: it waits at the end of the stream, stops on a decode fault, or runs a command (R78, R81, R252). -/
theorem step_cases (s : State) :
    step s = .next s ∨ (∃ e, step s = .fault (decodeFault e s.cp)) ∨ ∃ i, step s = exec i s := by
  by_cases hend : s.cp = s.cs.length
  · exact .inl (step_of_end hend)
  · cases hd : decode (s.cs.drop s.cp) with
    | error e => exact .inr (.inl ⟨e, step_of_decode_error hend hd⟩)
    | ok r => exact .inr (.inr ⟨r.1, step_of_decode_ok hd⟩)

/-- Settles O9: `finish` answers no refusal, and a step that runs no command waits or faults. -/
theorem noCommandIsRefused : Obligations.NoCommandIsRefused := by
  have hexec : ∀ (i : Instr) (s : State) (r : Refusal), exec i s ≠ .refused r := fun i s r => by
    obtain ⟨body, hbody⟩ := exec_eq_finish i s
    rw [hbody]
    exact finish_not_refused _ _ r
  refine ⟨hexec, fun s r => ?_⟩
  obtain h | ⟨e, h⟩ | ⟨i, h⟩ := step_cases s <;> rw [h]
  · exact nofun
  · exact nofun
  · exact hexec i s r

/-! The frequency commands (R22, R107, R119, R121). -/

/-- A frequency command faults on FREEZE, in its operand check or at a voice. -/
theorem frequency_fault_source {i : Instr} (hi : isFrequency i = true) {s : State} {f : Fault} (h : exec i s = .fault f) :
    f = .unwrittenRead s.cp ∨ frequencyCheck s.cp i = .error f ∨ ∃ j, voiceIncrement Config.cfg s.cp i j = .error f := by
  cases hz : s.freeze with
  | undef =>
    rw [exec_frequency_undef hi hz] at h
    exact .inl (Host.Outcome.fault.inj h).symm
  | val fz =>
    obtain hc | ⟨-, hx⟩ := (exec_frequency_fault hi hz).mp h
    · exact .inr (.inl hc)
    · obtain ⟨j, -, hj⟩ := assignVoices_error hx
      exact .inr (.inr ⟨j, hj⟩)

theorem unwrittenRead_mem_mayRaise {i : Instr} (hi : isFrequency i = true) (cp : Nat) :
    .unwrittenRead cp ∈ mayRaise cp i := by
  cases i with
  | freqFree _ _ _ => exact List.mem_cons_self
  | freqChord _ _ _ _ => exact List.mem_cons_self
  | freqRational _ _ _ => exact List.mem_cons_self
  | freqHarmonic _ _ _ _ => exact List.mem_cons_self
  | _ => cases hi

theorem frequencyCheck_error_mem_mayRaise {cp : Nat} {i : Instr} {f : Fault} (h : frequencyCheck cp i = .error f) :
    f ∈ mayRaise cp i := by
  cases i with
  | freqChord note spread fine chord =>
    rw [frequencyCheck, checkChord, raise] at h
    split_ifs at h <;> cases h
    simp [mayRaise]
  | freqRational n spread fine =>
    rw [frequencyCheck, checkRational, raise, raise] at h
    split_ifs at h <;> cases h
    · simp [mayRaise]
    · simp [mayRaise]
  | _ => cases h

theorem voiceIncrement_error_mem_mayRaise {c : Config} {cp : Nat} {i : Instr} {j : Fin 6} {f : Fault}
    (h : voiceIncrement c cp i j = .error f) : f ∈ mayRaise cp i := by
  obtain ⟨base, spread, fine, detune, rfl⟩ := eq_freqHarmonic_of_voiceIncrement_error h
  obtain ⟨-, rfl⟩ := voiceIncrement_harmonic_error.mp h
  simp [mayRaise]

theorem frequency_fault_mem_mayRaise {i : Instr} (hi : isFrequency i = true) {s : State} {f : Fault}
    (h : exec i s = .fault f) : f ∈ mayRaise s.cp i := by
  obtain rfl | hc | ⟨j, hj⟩ := frequency_fault_source hi h
  · exact unwrittenRead_mem_mayRaise hi s.cp
  · exact frequencyCheck_error_mem_mayRaise hc
  · exact voiceIncrement_error_mem_mayRaise hj

/-! SET_STRUCTURE and the processing commands (R141, R151, R153, R157, R168). -/

theorem setStructure_fault_mem_mayRaise {value : V} {s : State} {f : Fault} (h : exec (.setStructure value) s = .fault f) :
    f ∈ mayRaise s.cp (.setStructure value) := by
  rw [exec, execSetStructure, setStructureWith_eq] at h
  split_ifs at h
  exact List.mem_singleton.mpr (Host.Outcome.fault.inj h).symm

/-- A processing command faults on its count, in a phase, or in the checks of a non-empty block. -/
theorem procWith_fault_source {mode : Mode} {count : Nat} {s : State} {f : Fault}
    (h : procWith Config.cfg mode count s = .fault f) :
    f = .fbRange s.cp ∨ f = .phaseRange s.cp ∨ snapshot Config.cfg s = .error f := by
  by_cases hn : Config.cfg.fbFrames < count
  · rw [procWith_above hn] at h
    exact .inl (Host.Outcome.fault.inj h).symm
  · have h1 : 1 ≤ count := Nat.one_le_iff_ne_zero.mpr fun h0 => by
      rw [h0, procWith_zero] at h
      cases h
    by_cases hf : f = .phaseRange s.cp
    · exact .inr (.inl hf)
    · exact .inr (.inr ((procWith_fault h1 (not_lt.mp hn) hf).mp h))

/-- The two processing commands share one row of the table (R213). -/
theorem mayRaise_processing {i : Instr} {count : Nat} (hi : frameCount i = some count) (cp : Nat) : mayRaise cp i =
    [.fbRange cp, .unwrittenRead cp, .decimateLevel cp, .bitcrushLevel cp, .driveZero cp, .phaseRange cp] := by
  cases i with
  | procFm _ => rfl
  | procAm _ => rfl
  | _ => cases hi

theorem processing_fault_mem_mayRaise {i : Instr} {count : Nat} (hi : frameCount i = some count) {s : State} {f : Fault}
    (h : exec i s = .fault f) : f ∈ mayRaise s.cp i := by
  obtain ⟨-, mode, he⟩ := exec_processing hi
  rw [he] at h
  rw [mayRaise_processing hi]
  obtain rfl | rfl | hs := procWith_fault_source h
  · simp
  · simp
  · obtain ⟨-, rfl⟩ | ⟨-, hl⟩ := snapshot_error.mp hs
    · simp
    · obtain ⟨-, rfl⟩ | ⟨-, -, rfl⟩ | ⟨-, -, -, rfl⟩ := checkLevels_error.mp hl <;> simp

/-! All commands. -/

/-- A command that faults does so with a fault of its row of the table, at its own cursor (R211, R213). -/
theorem exec_fault_mem_mayRaise {i : Instr} {s : State} {f : Fault} (h : exec i s = .fault f) : f ∈ mayRaise s.cp i := by
  cases i with
  | freqFree _ _ _ => exact frequency_fault_mem_mayRaise rfl h
  | freqChord _ _ _ _ => exact frequency_fault_mem_mayRaise rfl h
  | freqRational _ _ _ => exact frequency_fault_mem_mayRaise rfl h
  | freqHarmonic _ _ _ _ => exact frequency_fault_mem_mayRaise rfl h
  | setStructure _ => exact setStructure_fault_mem_mayRaise h
  | procFm _ => exact processing_fault_mem_mayRaise rfl h
  | procAm _ => exact processing_fault_mem_mayRaise rfl h
  | _ => cases h

/-- Settles O10: a step's fault is its decode's or its command's. -/
theorem faultsAreThoseOfTheTable : Obligations.FaultsAreThoseOfTheTable := by
  refine ⟨fun _ _ _ => exec_fault_mem_mayRaise, fun s f h => ?_⟩
  obtain hs | ⟨e, hs⟩ | ⟨i, hs⟩ := step_cases s <;> rw [hs] at h
  · cases h
  · obtain rfl := Host.Outcome.fault.inj h
    cases e <;> simp [decodeFault]
  · exact .inr (.inr (.inr ⟨i, exec_fault_mem_mayRaise h⟩))

end Sys2Proof.Machine
end

section
/-! PROOFS. What completes right after reset, and the end of a run over the words in CS (R233, R251, R252). -/

namespace Sys2Proof.Machine

/-- Settles O15: each command answers in every state; SET_STRUCTURE does for an operand in its range. -/
theorem settersStructureAndEmptyBlocksWorkAfterReset : Obligations.SettersStructureAndEmptyBlocksWorkAfterReset := by
  constructor
  · rintro i (rfl | ⟨b, rfl⟩ | ⟨v, rfl⟩ | ⟨v, rfl⟩ | ⟨v, rfl⟩ | ⟨v, rfl⟩ | ⟨v, rfl⟩ | rfl | rfl)
    · exact ⟨_, initResetsRegistersAndKeepsFrames .reset⟩
    · exact ⟨_, finish_ok 1 (State.reset.setFreeze b)⟩
    · exact ⟨_, finish_ok 2 (State.reset.setFeedback v)⟩
    · exact ⟨_, finish_ok 2 (State.reset.setModindex v)⟩
    · exact ⟨_, finish_ok 2 (State.reset.setBitcrush v)⟩
    · exact ⟨_, finish_ok 2 (State.reset.setDecimate v)⟩
    · exact ⟨_, finish_ok 2 (State.reset.setDrive v)⟩
    · exact ⟨_, procWith_zero Config.cfg .fm .reset⟩
    · exact ⟨_, procWith_zero Config.cfg .am .reset⟩
  · exact fun v h0 h1 => ⟨_, (setStructureInterpolatesTheMatrix v .reset).2 h0 h1⟩

/-! A run: every step before the end of the stream uses up a word of it or faults. -/

theorem State.isFinished_iff {s : State} : s.isFinished = true ↔ s.cp = s.cs.length := beq_iff_eq

/-- Before the end of the stream a step faults, or answers with the cursor moved on inside the same stream (R72, R78, R251). -/
theorem step_progresses {s : State} (hend : s.cp ≠ s.cs.length) :
    (∃ f, step s = .fault f) ∨ ∃ t, step s = .next t ∧ s.cp < t.cp ∧ t.CursorInStream ∧ t.cs = s.cs := by
  cases hd : decode (s.cs.drop s.cp) with
  | error e => exact .inl ⟨_, step_of_decode_error hend hd⟩
  | ok r =>
    obtain ⟨i, rest⟩ := r
    have hstep : step s = exec i s := step_of_decode_ok hd
    cases hx : exec i s with
    | fault f => exact .inl ⟨f, hstep.trans hx⟩
    | refused q => exact absurd hx (noCommandIsRefused.1 i s q)
    | next t =>
      obtain ⟨hcp, hcs⟩ := everyCommandMovesTheCursorByItsLength i s t hx
      have hpos : 1 ≤ i.words := Nat.le_add_right 1 _
      have hwords : i.words ≤ s.cs.length - s.cp := List.length_drop ▸ words_le_of_decode hd
      refine .inr ⟨t, hstep.trans hx, by omega, ?_, hcs⟩
      rw [State.CursorInStream, hcs]
      omega

theorem runFor_of_end {s : State} (h : s.cp = s.cs.length) (n : Nat) : runFor n s = .finished s := by
  cases n <;> exact if_pos (State.isFinished_iff.mpr h)

theorem runFor_succ_of_next {s t : State} (hend : s.cp ≠ s.cs.length) (h : step s = .next t) (n : Nat) :
    runFor (n + 1) s = runFor n t := by
  rw [runFor, if_neg (mt State.isFinished_iff.mp hend), h]

theorem runFor_succ_of_fault {s : State} {f : Fault} (hend : s.cp ≠ s.cs.length) (h : step s = .fault f) (n : Nat) :
    runFor (n + 1) s = .faulted f := by
  rw [runFor, if_neg (mt State.isFinished_iff.mp hend), h]

/-- As many steps as the stream has words left are enough for the run to end (R251, R252). -/
theorem runFor_ends (n : Nat) {s : State} (hs : s.CursorInStream) (hn : s.cs.length - s.cp ≤ n) :
    (∃ t, runFor n s = .finished t ∧ t.cp = t.cs.length ∧ t.cs = s.cs) ∨ ∃ f, runFor n s = .faulted f := by
  induction n generalizing s with
  | zero =>
    have hend : s.cp = s.cs.length := Nat.le_antisymm hs (Nat.sub_eq_zero_iff_le.mp (Nat.le_zero.mp hn))
    exact .inl ⟨s, runFor_of_end hend 0, hend, rfl⟩
  | succ n ih =>
    by_cases hend : s.cp = s.cs.length
    · exact .inl ⟨s, runFor_of_end hend (n + 1), hend, rfl⟩
    · obtain ⟨f, hf⟩ | ⟨t, ht, hlt, htin, hcs⟩ := step_progresses hend
      · exact .inr ⟨f, runFor_succ_of_fault hend hf n⟩
      · rw [runFor_succ_of_next hend ht, ← hcs]
        exact ih htin (by rw [hcs]; omega)

/-- Settles O58: a run is given as many steps as the stream has words left. -/
theorem everyRunEnds : Obligations.EveryRunEnds :=
  fun s hs => runFor_ends (s.cs.length - s.cp) hs le_rfl

end Sys2Proof.Machine
end
